-- ==== Sys2Proof/Word.lean ====
section
/-! DEFINITION. The machine word of 32 bits (00_scope.md R7), bytes and nibbles (R10), and `wrap32` (R9). -/

namespace Sys2Proof

/-- A byte (00_scope.md R10). -/
abbrev Byte := BitVec 8

/-- A 4-bit code or register nibble (00_scope.md R10). -/
abbrev Nibble := BitVec 4

/-- The 32-bit machine word; read as `int32` through `BitVec.toInt` (00_scope.md R7, R9). -/
abbrev Word := BitVec 32

/-- The unique word congruent to `x` modulo `2^32` (00_scope.md R9). -/
def wrap32 (x : Int) : Word := BitVec.ofInt 32 x

end Sys2Proof
end

