-- ==== Sys2Proof/Config.lean ====
section
/-! DEFINITION. What is fixed for one machine: the parameters of 00_scope.md R8 that a model takes as
arguments (`Params`), and the free values, constants without a body of which nothing can be proved. -/

namespace Sys2Proof

/-- The three condition codes ZF, SF, OF (10_state.md R59). -/
structure CC where
  zf  : Bool
  sf  : Bool
  ovf : Bool
deriving DecidableEq, Repr

/-- Parameter FAULT_WB (00_scope.md R8; 40_pipeline_stages.md R260): what the write-back of an
instruction with a stopping status does to its own destinations. -/
inductive FaultWB where
  /-- it writes nothing (the reference) -/
  | suppress
  /-- its destinations hold unspecified words afterwards -/
  | any
deriving DecidableEq, Repr

/-- The parameters of 00_scope.md R8 with a reference value (or OPEN, for CC_RESET) that a model takes as
arguments. MAX_CYCLES is not here: `configure` changes it, so it is state. -/
structure Params where
  /-- ENTRY_PC (10_state.md R58) -/
  entryPC  : Word
  /-- REG_RESET (10_state.md R54) -/
  regReset : Word
  /-- CC_RESET (10_state.md R62): OPEN in the spec -/
  ccReset  : CC
  /-- FAULT_WB (40_pipeline_stages.md R260) -/
  faultWB  : FaultWB
deriving DecidableEq, Repr

/-- The reference values. DESIGN CHOICE (unsafe: logs 4, 5, 6, 8). -/
def Params.reference : Params :=
  { entryPC := 0#32, regReset := 0#32, ccReset := ⟨false, false, false⟩, faultWB := .suppress }

/-- RNONE_CODE, the register nibble that means "no register" (30_encoding.md R158; DESIGN CHOICE of the spec,
92_eei_decisions.md D3; log 21). -/
def Config.rnoneCode : Nibble := 8#4

/-- MAX_CYCLES before the first `configure`: OPEN in the spec (60_exceptions.md R522). DESIGN CHOICE 1000, the
value of 95_test_vectors.md (unsafe: log 7). -/
def Config.maxCyclesReset : Nat := 1000

/-- FREE VALUE (log 8): the words a faulting write-back leaves in its destinations under FAULT_WB = any
(93_implementation_defined.md U7). -/
opaque Config.faultWrite : Nat → Word

/-- FREE VALUE (log 13): the unwrapped ALU result of a function code without meaning (30_encoding.md R172) in E
that is going to be squashed, by function code and the two inputs. -/
opaque Config.undefinedAlu : Nibble → Word → Word → Int

/-- FREE VALUE (log 13): the condition of a function code without meaning (30_encoding.md R172) in E that is going
to be squashed. -/
opaque Config.undefinedCond : Nibble → CC → Bool

end Sys2Proof
end

