-- ==== Sys2Proof/Syntax.lean ====
section
/-! DEFINITION. Registers, opcodes, and the instructions: one constructor of `Instr` per row of
spec/opcode_table.json, with every operand bit of its encoding (30_encoding.md R160 to R164). -/

namespace Sys2Proof

/-- The eight general registers, ids 0 to 7 in this order (10_state.md R50, R51). -/
inductive Reg where
  | eax | ecx | edx | ebx | esp | ebp | esi | edi
deriving DecidableEq, Repr

/-- A register id 0..8: a general register, or `none` for RNONE, which is no register (10_state.md R52). -/
abbrev RegId := Option Reg

/-- The sixteen opcode values: the twelve defined ones (30_encoding.md R160) and the four invalid ones 0xC to 0xF,
which the pipeline carries as raw codes (R170; 40_pipeline_stages.md R218). -/
inductive ICode where
  | ihalt | inop | irrmovl | iirmovl | irmmovl | imrmovl | iopl | ijxx | icall | iret | ipushl | ipopl
  | invC | invD | invE | invF
deriving DecidableEq, Repr

/-- The four ALU functions (30_encoding.md R161). -/
inductive AluFun where
  | add | sub | and | xor
deriving DecidableEq, Repr

/-- The seven conditions (30_encoding.md R162). -/
inductive Cond where
  | always | le | l | e | ne | ge | g
deriving DecidableEq, Repr

/-- The instructions. `ifun` is the ignored function code of a single-function opcode (30_encoding.md R163) and the
register fields include the unused ones (R175): no meaning depends on either, but no bit of an encoding is lost. -/
inductive Instr where
  | halt (ifun : Nibble)
  | nop (ifun : Nibble)
  | rrmovl (rA rB : RegId)
  | cmovle (rA rB : RegId)
  | cmovl (rA rB : RegId)
  | cmove (rA rB : RegId)
  | cmovne (rA rB : RegId)
  | cmovge (rA rB : RegId)
  | cmovg (rA rB : RegId)
  | irmovl (ifun : Nibble) (rA rB : RegId) (v : Word)
  | rmmovl (ifun : Nibble) (rA rB : RegId) (d : Word)
  | mrmovl (ifun : Nibble) (rA rB : RegId) (d : Word)
  | addl (rA rB : RegId)
  | subl (rA rB : RegId)
  | andl (rA rB : RegId)
  | xorl (rA rB : RegId)
  | jmp (dest : Word)
  | jle (dest : Word)
  | jl (dest : Word)
  | je (dest : Word)
  | jne (dest : Word)
  | jge (dest : Word)
  | jg (dest : Word)
  | call (ifun : Nibble) (dest : Word)
  | ret (ifun : Nibble)
  | pushl (ifun : Nibble) (rA rB : RegId)
  | popl (ifun : Nibble) (rA rB : RegId)
deriving DecidableEq, Repr

end Sys2Proof
end

