-- ==== Sys2Proof/WellFormed.lean ====
section
/-! DEFINITION. The admitted instructions: RNONE does not stand where the instruction uses the value of a source
(30_encoding.md R174). RNONE as a destination, and in an unused field, is admitted (R174, R175). -/

namespace Sys2Proof

/-- The register fields whose value the instruction uses as a source (30_encoding.md R174). -/
def Instr.usedSources : Instr → List RegId
  | .halt _ => []
  | .nop _ => []
  | .rrmovl rA _ => [rA]
  | .cmovle rA _ => [rA]
  | .cmovl rA _ => [rA]
  | .cmove rA _ => [rA]
  | .cmovne rA _ => [rA]
  | .cmovge rA _ => [rA]
  | .cmovg rA _ => [rA]
  | .irmovl _ _ _ _ => []
  | .rmmovl _ rA rB _ => [rA, rB]
  | .mrmovl _ _ rB _ => [rB]
  | .addl rA rB => [rA, rB]
  | .subl rA rB => [rA, rB]
  | .andl rA rB => [rA, rB]
  | .xorl rA rB => [rA, rB]
  | .jmp _ => []
  | .jle _ => []
  | .jl _ => []
  | .je _ => []
  | .jne _ => []
  | .jge _ => []
  | .jg _ => []
  | .call _ _ => []
  | .ret _ => []
  | .pushl _ rA _ => [rA]
  | .popl _ _ _ => []

/-- No used source is RNONE: the instruction is in the admitted subset (30_encoding.md R174). -/
def Instr.wellFormed (i : Instr) : Bool := i.usedSources.all Option.isSome

end Sys2Proof
end

