-- ==== Sys2Proof/Decode.lean ====
section
/-! DEFINITION. The instruction decoder (30_encoding.md; 40_pipeline_stages.md R211 to R215), total on any bytes and
rejecting by name, and after it the encoder, written from the same tables of 30_encoding.md. -/

namespace Sys2Proof

/-! ## Bit fields and byte order -/

/-- The high nibble of a byte (00_scope.md R10). -/
def hi4 (b : Byte) : Nibble := b.extractLsb' 4 4

/-- The low nibble of a byte (00_scope.md R10). -/
def lo4 (b : Byte) : Nibble := b.extractLsb' 0 4

/-- Four bytes, the first at the lowest address, as one little-endian word (00_scope.md R10; 20_memory.md R104). -/
def le32 (b0 b1 b2 b3 : Byte) : Word := b3 ++ b2 ++ b1 ++ b0

/-- The four bytes of a word, lowest address first: the layout `le32` reads. -/
def leBytes (w : Word) : List Byte :=
  [w.extractLsb' 0 8, w.extractLsb' 8 8, w.extractLsb' 16 8, w.extractLsb' 24 8]

/-! ## Codes -/

/-- 30_encoding.md R160 (PRESUMED: general knowledge, D1; log 9). -/
def ICode.toNibble : ICode → Nibble
  | .ihalt => 0x0#4
  | .inop => 0x1#4
  | .irrmovl => 0x2#4
  | .iirmovl => 0x3#4
  | .irmmovl => 0x4#4
  | .imrmovl => 0x5#4
  | .iopl => 0x6#4
  | .ijxx => 0x7#4
  | .icall => 0x8#4
  | .iret => 0x9#4
  | .ipushl => 0xA#4
  | .ipopl => 0xB#4
  | .invC => 0xC#4
  | .invD => 0xD#4
  | .invE => 0xE#4
  | .invF => 0xF#4

/-- The opcode a nibble names; every value is one of the sixteen (30_encoding.md R160, R170). -/
def ICode.ofNibble (n : Nibble) : ICode :=
  match n.toNat with
  | 0 => .ihalt
  | 1 => .inop
  | 2 => .irrmovl
  | 3 => .iirmovl
  | 4 => .irmmovl
  | 5 => .imrmovl
  | 6 => .iopl
  | 7 => .ijxx
  | 8 => .icall
  | 9 => .iret
  | 10 => .ipushl
  | 11 => .ipopl
  | 12 => .invC
  | 13 => .invD
  | 14 => .invE
  | _ => .invF

/-- The icode is one of the twelve defined opcodes (40_pipeline_stages.md R212). -/
def ICode.valid : ICode → Bool
  | .invC => false
  | .invD => false
  | .invE => false
  | .invF => false
  | _ => true

/-- NEED_REGIDS (30_encoding.md R155). -/
def ICode.needRegids : ICode → Bool
  | .irrmovl => true
  | .iopl => true
  | .ipushl => true
  | .ipopl => true
  | .iirmovl => true
  | .irmmovl => true
  | .imrmovl => true
  | _ => false

/-- NEED_VALC (30_encoding.md R156). -/
def ICode.needValC : ICode → Bool
  | .iirmovl => true
  | .irmmovl => true
  | .imrmovl => true
  | .ijxx => true
  | .icall => true
  | _ => false

/-- The length in bytes, from the icode alone (30_encoding.md R154). -/
def ICode.length (c : ICode) : Nat :=
  1 + (if c.needRegids then 1 else 0) + (if c.needValC then 4 else 0)

/-- The id of a general register (10_state.md R51). -/
def Reg.toNibble : Reg → Nibble
  | .eax => 0#4
  | .ecx => 1#4
  | .edx => 2#4
  | .ebx => 3#4
  | .esp => 4#4
  | .ebp => 5#4
  | .esi => 6#4
  | .edi => 7#4

/-- The nibble of a register id (30_encoding.md R158). -/
def RegId.toNibble : RegId → Nibble
  | none => Config.rnoneCode
  | some r => r.toNibble

/-- The register id a nibble names, if it is a valid one: 0..7, or RNONE_CODE for RNONE (30_encoding.md R158). -/
def RegId.ofNibble? (n : Nibble) : Option RegId :=
  match n.toNat with
  | 0 => some (some .eax)
  | 1 => some (some .ecx)
  | 2 => some (some .edx)
  | 3 => some (some .ebx)
  | 4 => some (some .esp)
  | 5 => some (some .ebp)
  | 6 => some (some .esi)
  | 7 => some (some .edi)
  | _ => if n = Config.rnoneCode then some none else none

/-- 30_encoding.md R161. -/
def AluFun.toNibble : AluFun → Nibble
  | .add => 0#4
  | .sub => 1#4
  | .and => 2#4
  | .xor => 3#4

/-- The ALU function of an IOPL function code; 4 to 15 have none (30_encoding.md R161, R172). -/
def AluFun.ofNibble? (n : Nibble) : Option AluFun :=
  match n.toNat with
  | 0 => some .add
  | 1 => some .sub
  | 2 => some .and
  | 3 => some .xor
  | _ => none

/-- 30_encoding.md R162. -/
def Cond.toNibble : Cond → Nibble
  | .always => 0#4
  | .le => 1#4
  | .l => 2#4
  | .e => 3#4
  | .ne => 4#4
  | .ge => 5#4
  | .g => 6#4

/-- The condition of an IJXX or IRRMOVL function code; 7 to 15 have none (30_encoding.md R162, R172). -/
def Cond.ofNibble? (n : Nibble) : Option Cond :=
  match n.toNat with
  | 0 => some .always
  | 1 => some .le
  | 2 => some .l
  | 3 => some .e
  | 4 => some .ne
  | 5 => some .ge
  | 6 => some .g
  | _ => none

/-! ## Fields -/

/-- The fields of one instruction as fetch reads them (30_encoding.md R150 to R152); `rA` and `rB` are RNONE and
`valC` is 0 where the format has none (40_pipeline_stages.md R213, R215). -/
structure Fields where
  icode : ICode
  ifun  : Nibble
  rA    : RegId
  rB    : RegId
  valC  : Word
deriving DecidableEq, Repr

/-- Why the fields cannot be read; each is a fetch AddressError (40_pipeline_stages.md R211 to R215). -/
inductive FieldError where
  /-- byte 0 is not there (R211) -/
  | noOpcodeByte
  /-- the register byte is not there (R213) -/
  | noRegisterByte
  /-- a register nibble is 9..15 (R214) -/
  | badRegisterId
  /-- the four immediate bytes are not all there (R215) -/
  | noImmediate
deriving DecidableEq, Repr

/-- The register byte, where the format has one (40_pipeline_stages.md R213, R214; 30_encoding.md R151): both nibbles
are checked, used or not. -/
def readRegByte (need : Bool) (bytes : List Byte) : Except FieldError (RegId × RegId × List Byte) :=
  if need then
    match bytes with
    | [] => .error .noRegisterByte
    | b :: rest =>
      match RegId.ofNibble? (hi4 b), RegId.ofNibble? (lo4 b) with
      | some rA, some rB => .ok (rA, rB, rest)
      | _, _ => .error .badRegisterId
  else .ok (none, none, bytes)

/-- The immediate, where the format has one (40_pipeline_stages.md R215; 30_encoding.md R152). -/
def readImmediate (need : Bool) (bytes : List Byte) : Except FieldError (Word × List Byte) :=
  if need then
    match bytes with
    | b0 :: b1 :: b2 :: b3 :: rest => .ok (le32 b0 b1 b2 b3, rest)
    | _ => .error .noImmediate
  else .ok (0#32, bytes)

/-- The fields of the instruction the bytes begin with, and the bytes after it (40_pipeline_stages.md R211 to R215). -/
def readFields : List Byte → Except FieldError (Fields × List Byte)
  | [] => .error .noOpcodeByte
  | b0 :: rest =>
    match readRegByte (ICode.ofNibble (hi4 b0)).needRegids rest with
    | .error e => .error e
    | .ok (rA, rB, rest1) =>
      match readImmediate (ICode.ofNibble (hi4 b0)).needValC rest1 with
      | .error e => .error e
      | .ok (valC, rest2) => .ok (⟨ICode.ofNibble (hi4 b0), lo4 b0, rA, rB, valC⟩, rest2)

/-! ## Decoding -/

/-- Why bytes decode to no instruction. -/
inductive DecodeError where
  /-- the fields cannot be read: a fetch AddressError -/
  | fields (e : FieldError)
  /-- the icode is 0xC..0xF: InvalidInstruction (30_encoding.md R170, R171) -/
  | invalidOpcode (icode : ICode)
  /-- a function code without meaning of IOPL, IJXX or IRRMOVL: refused when executed (30_encoding.md R172) -/
  | undefinedFunction (icode : ICode) (ifun : Nibble)
deriving DecidableEq, Repr

/-- The register move of a condition (30_encoding.md R162, R164). -/
def moveInstr (c : Cond) (rA rB : RegId) : Instr :=
  match c with
  | .always => .rrmovl rA rB
  | .le => .cmovle rA rB
  | .l => .cmovl rA rB
  | .e => .cmove rA rB
  | .ne => .cmovne rA rB
  | .ge => .cmovge rA rB
  | .g => .cmovg rA rB

/-- The OPl instruction of an ALU function (30_encoding.md R161, R164). -/
def aluInstr (f : AluFun) (rA rB : RegId) : Instr :=
  match f with
  | .add => .addl rA rB
  | .sub => .subl rA rB
  | .and => .andl rA rB
  | .xor => .xorl rA rB

/-- The jump of a condition (30_encoding.md R162, R164). -/
def jumpInstr (c : Cond) (dest : Word) : Instr :=
  match c with
  | .always => .jmp dest
  | .le => .jle dest
  | .l => .jl dest
  | .e => .je dest
  | .ne => .jne dest
  | .ge => .jge dest
  | .g => .jg dest

/-- The instruction the fields stand for (30_encoding.md R160 to R164, R170 to R172). -/
def instrOf (fl : Fields) : Except DecodeError Instr :=
  match fl.icode with
  | .ihalt => .ok (.halt fl.ifun)
  | .inop => .ok (.nop fl.ifun)
  | .irrmovl =>
    match Cond.ofNibble? fl.ifun with
    | some c => .ok (moveInstr c fl.rA fl.rB)
    | none => .error (.undefinedFunction .irrmovl fl.ifun)
  | .iirmovl => .ok (.irmovl fl.ifun fl.rA fl.rB fl.valC)
  | .irmmovl => .ok (.rmmovl fl.ifun fl.rA fl.rB fl.valC)
  | .imrmovl => .ok (.mrmovl fl.ifun fl.rA fl.rB fl.valC)
  | .iopl =>
    match AluFun.ofNibble? fl.ifun with
    | some f => .ok (aluInstr f fl.rA fl.rB)
    | none => .error (.undefinedFunction .iopl fl.ifun)
  | .ijxx =>
    match Cond.ofNibble? fl.ifun with
    | some c => .ok (jumpInstr c fl.valC)
    | none => .error (.undefinedFunction .ijxx fl.ifun)
  | .icall => .ok (.call fl.ifun fl.valC)
  | .iret => .ok (.ret fl.ifun)
  | .ipushl => .ok (.pushl fl.ifun fl.rA fl.rB)
  | .ipopl => .ok (.popl fl.ifun fl.rA fl.rB)
  | .invC => .error (.invalidOpcode .invC)
  | .invD => .error (.invalidOpcode .invD)
  | .invE => .error (.invalidOpcode .invE)
  | .invF => .error (.invalidOpcode .invF)

/-- Decode the instruction the bytes begin with, and give the bytes after it. -/
def decode (bytes : List Byte) : Except DecodeError (Instr × List Byte) :=
  match readFields bytes with
  | .error e => .error (.fields e)
  | .ok (fl, rest) =>
    match instrOf fl with
    | .error e => .error e
    | .ok i => .ok (i, rest)

/-! ## Encoding -/

/-- The fields of an instruction, row by row of the table of 30_encoding.md R164. -/
def Instr.fields : Instr → Fields
  | .halt ifun => ⟨.ihalt, ifun, none, none, 0#32⟩
  | .nop ifun => ⟨.inop, ifun, none, none, 0#32⟩
  | .rrmovl rA rB => ⟨.irrmovl, 0#4, rA, rB, 0#32⟩
  | .cmovle rA rB => ⟨.irrmovl, 1#4, rA, rB, 0#32⟩
  | .cmovl rA rB => ⟨.irrmovl, 2#4, rA, rB, 0#32⟩
  | .cmove rA rB => ⟨.irrmovl, 3#4, rA, rB, 0#32⟩
  | .cmovne rA rB => ⟨.irrmovl, 4#4, rA, rB, 0#32⟩
  | .cmovge rA rB => ⟨.irrmovl, 5#4, rA, rB, 0#32⟩
  | .cmovg rA rB => ⟨.irrmovl, 6#4, rA, rB, 0#32⟩
  | .irmovl ifun rA rB v => ⟨.iirmovl, ifun, rA, rB, v⟩
  | .rmmovl ifun rA rB d => ⟨.irmmovl, ifun, rA, rB, d⟩
  | .mrmovl ifun rA rB d => ⟨.imrmovl, ifun, rA, rB, d⟩
  | .addl rA rB => ⟨.iopl, 0#4, rA, rB, 0#32⟩
  | .subl rA rB => ⟨.iopl, 1#4, rA, rB, 0#32⟩
  | .andl rA rB => ⟨.iopl, 2#4, rA, rB, 0#32⟩
  | .xorl rA rB => ⟨.iopl, 3#4, rA, rB, 0#32⟩
  | .jmp dest => ⟨.ijxx, 0#4, none, none, dest⟩
  | .jle dest => ⟨.ijxx, 1#4, none, none, dest⟩
  | .jl dest => ⟨.ijxx, 2#4, none, none, dest⟩
  | .je dest => ⟨.ijxx, 3#4, none, none, dest⟩
  | .jne dest => ⟨.ijxx, 4#4, none, none, dest⟩
  | .jge dest => ⟨.ijxx, 5#4, none, none, dest⟩
  | .jg dest => ⟨.ijxx, 6#4, none, none, dest⟩
  | .call ifun dest => ⟨.icall, ifun, none, none, dest⟩
  | .ret ifun => ⟨.iret, ifun, none, none, 0#32⟩
  | .pushl ifun rA rB => ⟨.ipushl, ifun, rA, rB, 0#32⟩
  | .popl ifun rA rB => ⟨.ipopl, ifun, rA, rB, 0#32⟩

/-- The length of an instruction in bytes (30_encoding.md R153, R154). -/
def Instr.length (i : Instr) : Nat := i.fields.icode.length

/-- The bytes of the fields, in the format of their icode (30_encoding.md R150 to R153). -/
def Fields.encode (fl : Fields) : List Byte :=
  (fl.icode.toNibble ++ fl.ifun : Byte) ::
    ((if fl.icode.needRegids then [(RegId.toNibble fl.rA ++ RegId.toNibble fl.rB : Byte)] else []) ++
      (if fl.icode.needValC then leBytes fl.valC else []))

/-- The bytes of an instruction (30_encoding.md R164). -/
def encode (i : Instr) : List Byte := i.fields.encode

/-! ## Table words -/

/-- The first `n` bytes of an instruction whose bits are `w`, numbered as spec/opcode_table.json numbers them: byte
`k` is bits `8k+7` to `8k`. -/
def tableBytes (n w : Nat) : List Byte :=
  (List.range n).map fun k => BitVec.ofNat 8 (w / 2 ^ (8 * k))

/-- The six bytes (the longest instruction) of a table word of `nbits` bits: every bit above is 0. -/
def tableWordBytes (nbits w : Nat) : List Byte := tableBytes 6 (w % 2 ^ nbits)

/-- The instruction the decoder reads from a table word. -/
def decodeTableWord (nbits w : Nat) : Option Instr :=
  match decode (tableWordBytes nbits w) with
  | .ok (i, _) => some i
  | .error _ => none

end Sys2Proof
end

