-- ==== Sys2Proof/Machine/State.lean ====
section
/-! DEFINITION. The state, as plain data: everything 10_state.md and 20_memory.md give the machine, the parameters of
00_scope.md R8, and the model's own `view` and `freeIndex`; the stop reasons; and the state after reset. -/

namespace Sys2Proof.Machine

/-- The status values (10_state.md R63; 60_exceptions.md R500); no numeric code. -/
inductive Status where
  | bubble
  | ok
  | addressError
  | invalidInstruction
  | halt
deriving DecidableEq, Repr

/-- The register file: eight words (10_state.md R50, R51). -/
structure RegFile where
  eax : Word
  ecx : Word
  edx : Word
  ebx : Word
  esp : Word
  ebp : Word
  esi : Word
  edi : Word
deriving DecidableEq, Repr

/-- Every register at `v` (10_state.md R54). -/
def RegFile.all (v : Word) : RegFile := ⟨v, v, v, v, v, v, v, v⟩

/-- The memory state (10_state.md R80): the immutable image as a sequence of bytes (20_memory.md R100), the map WMem
of whole words keyed by byte address (R101), and ReadSet (R102). WMem and ReadSet are in strictly rising key order
(`Memory.wf`); a key is the address's unsigned reading (log 15). -/
structure Memory where
  image   : List Byte
  wmem    : List (Nat × Word)
  readSet : List Nat
deriving DecidableEq, Repr

/-- Register F (10_state.md R71). -/
structure FReg where
  stat   : Status
  predPC : Word
deriving DecidableEq, Repr

/-- Register D (10_state.md R72). -/
structure DReg where
  stat  : Status
  icode : ICode
  ifun  : Nibble
  rA    : RegId
  rB    : RegId
  valC  : Word
  valP  : Word
deriving DecidableEq, Repr

/-- Register E (10_state.md R73), and the decode wires, which have the same fields (R70; 40_pipeline_stages.md R202). -/
structure EReg where
  stat  : Status
  icode : ICode
  ifun  : Nibble
  valC  : Word
  valA  : Word
  valB  : Word
  dstE  : RegId
  dstM  : RegId
  srcA  : RegId
  srcB  : RegId
deriving DecidableEq, Repr

/-- Register M (10_state.md R74), and the execute wires, which have the same fields (R70; 40_pipeline_stages.md R202). -/
structure MReg where
  stat  : Status
  icode : ICode
  cnd   : Bool
  valE  : Word
  valA  : Word
  dstE  : RegId
  dstM  : RegId
deriving DecidableEq, Repr

/-- Register W (10_state.md R75), and the memory wires, which have the same fields (R70; 40_pipeline_stages.md R202). -/
structure WReg where
  stat  : Status
  icode : ICode
  valE  : Word
  valM  : Word
  dstE  : RegId
  dstM  : RegId
deriving DecidableEq, Repr

/-- The fetch wires (10_state.md R70): what D and F latch, and `f_pc`, which no latch reads. -/
structure FetchOut where
  pc     : Word
  stat   : Status
  icode  : ICode
  ifun   : Nibble
  rA     : RegId
  rB     : RegId
  valC   : Word
  valP   : Word
  predPC : Word
deriving DecidableEq, Repr

/-- The D bubble (10_state.md R76; DESIGN CHOICE of the spec, D16; log 12). -/
def DReg.bubble : DReg := ⟨.bubble, .inop, 0#4, none, none, 0#32, 0#32⟩

/-- The E bubble (10_state.md R76; log 12). -/
def EReg.bubble : EReg := ⟨.bubble, .inop, 0#4, 0#32, 0#32, 0#32, none, none, none, none⟩

/-- The M bubble (10_state.md R76; log 12). -/
def MReg.bubble : MReg := ⟨.bubble, .inop, false, 0#32, 0#32, none, none⟩

/-- The W bubble (10_state.md R76; log 12). -/
def WReg.bubble : WReg := ⟨.bubble, .inop, 0#32, 0#32, none, none⟩

/-- The fetch wires after `load`, with `f_predPC` at the entry address (10_state.md R79; log 12). -/
def FetchOut.bubble (entry : Word) : FetchOut :=
  ⟨0#32, .bubble, .inop, 0#4, none, none, 0#32, 0#32, entry⟩

/-- One entry of the cycle log (60_exceptions.md R531): registers and flags as the cycle found them, the five
pipeline registers as it left them. DESIGN CHOICE (log 20): it holds no stage wires, which R531 leaves to the host. -/
structure LogEntry where
  regs : RegFile
  cc   : CC
  F    : FReg
  D    : DReg
  E    : EReg
  M    : MReg
  W    : WReg
deriving DecidableEq, Repr

/-- The MODEL's own (log 1): what one call of `step` performs. -/
inductive StepView where
  /-- one clock cycle of the pipeline: `stepOneCycle()` (60_exceptions.md R530) -/
  | clockCycle
  /-- one instruction, by the effect lines of files 41 to 45: the one-at-a-time reading of 70_reset_and_hazards.md R630 -/
  | instruction
deriving DecidableEq, Repr

/-- The state of the machine. -/
structure State where
  /-- R[0..7] (10_state.md R50) -/
  regs      : RegFile
  /-- ZF, SF, OF (10_state.md R59) -/
  cc        : CC
  /-- the global status Stat (10_state.md R64) -/
  stat      : Status
  /-- the cycle counter (10_state.md R65) -/
  cycle     : Nat
  /-- 10_state.md R66 -/
  halted    : Bool
  /-- MAX_CYCLES, set by `configure` (60_exceptions.md R522, R530) -/
  maxCycles : Nat
  /-- pipeline register F (10_state.md R71) -/
  F         : FReg
  /-- pipeline register D (10_state.md R72) -/
  D         : DReg
  /-- pipeline register E (10_state.md R73) -/
  E         : EReg
  /-- pipeline register M (10_state.md R74) -/
  M         : MReg
  /-- pipeline register W (10_state.md R75) -/
  W         : WReg
  /-- the fetch wires (10_state.md R70) -/
  fOut      : FetchOut
  /-- the decode wires (10_state.md R70) -/
  dOut      : EReg
  /-- the execute wires (10_state.md R70) -/
  eOut      : MReg
  /-- the memory wires (10_state.md R70) -/
  mOut      : WReg
  /-- IMAGE, WMem and ReadSet (10_state.md R80) -/
  mem       : Memory
  /-- the cycle log, oldest entry first (10_state.md R82) -/
  log       : List LogEntry
  /-- the parameters (00_scope.md R8); no step changes them -/
  cfg       : Params
  /-- the MODEL's own: what one step performs (log 1) -/
  view      : StepView
  /-- the MODEL's own: the index of the next free value (log 8) -/
  freeIndex : Nat
deriving DecidableEq, Repr

/-- A step never ends in a fault: on this core a fault is a status carried as data, and taking it is a next state
(00_scope.md R12; 60_exceptions.md R502, R512). So there is no constructor, and no difference from the hardware. -/
inductive Fault where
deriving DecidableEq, Repr

/-- Why a step is refused. -/
inductive Refusal where
  /-- An instruction without a meaning in this model; raised only by `exec` (no arm does). Safe. -/
  | notModelled (mnemonic : String)
  /-- A function code of IOPL, IJXX or IRRMOVL without meaning is executed; the spec refuses the program
  (30_encoding.md R172; log 10). Raised by the execute stage and by the fetch of the instruction view. Safe. -/
  | undefinedFunctionCode (icode : ICode) (ifun : Nibble)
  /-- An instruction that uses the value of a RNONE source is executed; the spec refuses the program
  (30_encoding.md R174; log 11). Raised by the execute stage and by the meanings. Safe. -/
  | noneSource (icode : ICode)
deriving DecidableEq, Repr

/-- The outcome of a step of this machine. -/
abbrev Outcome := Host.Outcome State Fault Refusal

/-- The state after `load` of an image (70_reset_and_hazards.md R600; 10_state.md section 9). -/
def State.loaded (cfg : Params) (maxCycles : Nat) (view : StepView) (freeIndex : Nat) (image : List Byte) : State :=
  { regs := RegFile.all cfg.regReset
    cc := cfg.ccReset
    stat := .ok
    cycle := 0
    halted := false
    maxCycles := maxCycles
    F := ⟨.bubble, cfg.entryPC⟩
    D := DReg.bubble
    E := EReg.bubble
    M := MReg.bubble
    W := WReg.bubble
    fOut := FetchOut.bubble cfg.entryPC
    dOut := EReg.bubble
    eOut := MReg.bubble
    mOut := WReg.bubble
    mem := ⟨image, [], []⟩
    log := []
    cfg := cfg
    view := view
    freeIndex := freeIndex }

/-- The machine right after reset: construction equals `load` of the empty image (70_reset_and_hazards.md R600, D41;
log 14), with the reference parameters and clock cycles as steps. -/
def State.reset : State :=
  State.loaded Params.reference Config.maxCyclesReset .clockCycle 0 []

end Sys2Proof.Machine
end

