-- ==== Sys2Proof/Machine/Operands.lean ====
section
/-! DEFINITION. Register operands: the accessors of the register file (10_state.md R50 to R53), the decode tables of
40_pipeline_stages.md R221 to R224, the ALU input tables R241 and R242, and the memory tables R250 to R252. -/

namespace Sys2Proof.Machine

/-! ## The register file -/

/-- `R[r]` (00_scope.md R11). -/
def RegFile.get (rf : RegFile) : Reg → Word
  | .eax => rf.eax
  | .ecx => rf.ecx
  | .edx => rf.edx
  | .ebx => rf.ebx
  | .esp => rf.esp
  | .ebp => rf.ebp
  | .esi => rf.esi
  | .edi => rf.edi

/-- `R[r] <- v` (00_scope.md R11). -/
def RegFile.set (rf : RegFile) (r : Reg) (v : Word) : RegFile :=
  match r with
  | .eax => { rf with eax := v }
  | .ecx => { rf with ecx := v }
  | .edx => { rf with edx := v }
  | .ebx => { rf with ebx := v }
  | .esp => { rf with esp := v }
  | .ebp => { rf with ebp := v }
  | .esi => { rf with esi := v }
  | .edi => { rf with edi := v }

/-- A read by register id: RNONE reads no register and yields 0 (10_state.md R52, D20; log 11). -/
def RegFile.read (rf : RegFile) : RegId → Word
  | none => 0#32
  | some r => rf.get r

/-- A write by register id: RNONE writes nothing (10_state.md R52). -/
def RegFile.write (rf : RegFile) (d : RegId) (v : Word) : RegFile :=
  match d with
  | none => rf
  | some r => rf.set r v

/-- A read of the state's register file. -/
def State.readReg (s : State) (r : RegId) : Word := s.regs.read r

/-- A write of the state's register file. -/
def State.writeReg (s : State) (d : RegId) (v : Word) : State := { s with regs := s.regs.write d v }

/-- `%esp`, the register of the stack operations (10_state.md R51). -/
def espId : RegId := some .esp

/-! ## Decode tables -/

/-- d_srcA (40_pipeline_stages.md R221). -/
def srcAOf (D : DReg) : RegId :=
  match D.icode with
  | .irrmovl => D.rA
  | .irmmovl => D.rA
  | .iopl => D.rA
  | .ipushl => D.rA
  | .ipopl => espId
  | .iret => espId
  | _ => none

/-- d_srcB (40_pipeline_stages.md R222; PRESUMED, log 9). -/
def srcBOf (D : DReg) : RegId :=
  match D.icode with
  | .iopl => D.rB
  | .irmmovl => D.rB
  | .imrmovl => D.rB
  | .ipushl => espId
  | .ipopl => espId
  | .icall => espId
  | .iret => espId
  | _ => none

/-- d_dstE (40_pipeline_stages.md R223; PRESUMED, log 9). -/
def dstEOf (D : DReg) : RegId :=
  match D.icode with
  | .irrmovl => D.rB
  | .iirmovl => D.rB
  | .iopl => D.rB
  | .ipushl => espId
  | .ipopl => espId
  | .icall => espId
  | .iret => espId
  | _ => none

/-- d_dstM (40_pipeline_stages.md R224). -/
def dstMOf (D : DReg) : RegId :=
  match D.icode with
  | .imrmovl => D.rA
  | .ipopl => D.rA
  | _ => none

/-! ## ALU inputs -/

/-- The first ALU input (40_pipeline_stages.md R241; PRESUMED, log 9). -/
def aluAOf (E : EReg) : Word :=
  match E.icode with
  | .irrmovl => E.valA
  | .iopl => E.valA
  | .iirmovl => E.valC
  | .irmmovl => E.valC
  | .imrmovl => E.valC
  | .icall => wrap32 (-4)
  | .ipushl => wrap32 (-4)
  | .iret => 4#32
  | .ipopl => 4#32
  | _ => 0#32

/-- The second ALU input (40_pipeline_stages.md R242; PRESUMED, log 9). -/
def aluBOf (E : EReg) : Word :=
  match E.icode with
  | .irmmovl => E.valB
  | .imrmovl => E.valB
  | .iopl => E.valB
  | .icall => E.valB
  | .ipushl => E.valB
  | .iret => E.valB
  | .ipopl => E.valB
  | _ => 0#32

/-- The ALU function: `ifun` for IOPL, ADD for every other icode (40_pipeline_stages.md R242); none for an IOPL
function code without meaning (30_encoding.md R172). -/
def aluFunOf (E : EReg) : Option AluFun :=
  if E.icode = .iopl then AluFun.ofNibble? E.ifun else some .add

/-! ## The memory access -/

/-- mem_read (40_pipeline_stages.md R251). -/
def memReads : ICode → Bool
  | .imrmovl => true
  | .ipopl => true
  | .iret => true
  | _ => false

/-- mem_write (40_pipeline_stages.md R252). -/
def memWrites : ICode → Bool
  | .irmmovl => true
  | .ipushl => true
  | .icall => true
  | _ => false

/-- mem_addr (40_pipeline_stages.md R250): the passed-through `%esp` for pop and return, the ALU result for the
other accesses. -/
def memAddr (M : MReg) : Word :=
  match M.icode with
  | .ipopl => M.valA
  | .iret => M.valA
  | _ => M.valE

end Sys2Proof.Machine
end

