-- ==== Sys2Proof/Machine/Flags.lean ====
section
/-! DEFINITION. The ALU, the flags it gives, and the conditions over the flags (40_pipeline_stages.md R244, R245;
43_alu_ops.md R345). -/

namespace Sys2Proof.Machine

/-- The unwrapped ALU result of the second input `b` and the first input `a` (40_pipeline_stages.md R245): exact
integers for add and sub, two's-complement bits for and and xor. -/
def aluPre (f : AluFun) (b a : Word) : Int :=
  match f with
  | .add => b.toInt + a.toInt
  | .sub => b.toInt - a.toInt
  | .and => (b &&& a).toInt
  | .xor => (b ^^^ a).toInt

/-- The flags of an unwrapped result: zero, negative, outside the signed 32-bit range (40_pipeline_stages.md R245). -/
def flagsOf (pre : Int) : CC :=
  { zf := decide (pre = 0)
    sf := decide (pre < 0)
    ovf := decide (pre < -2147483648 ∨ 2147483647 < pre) }

/-- The condition formulas (40_pipeline_stages.md R244). -/
def condHolds (c : Cond) (cc : CC) : Bool :=
  match c with
  | .always => true
  | .le => (cc.sf ^^ cc.ovf) || cc.zf
  | .l => cc.sf ^^ cc.ovf
  | .e => cc.zf
  | .ne => !cc.zf
  | .ge => !(cc.sf ^^ cc.ovf)
  | .g => !((cc.sf ^^ cc.ovf) || cc.zf)

/-- The three flags written at once. -/
def State.setCC (s : State) (cc : CC) : State := { s with cc := cc }

end Sys2Proof.Machine
end

