-- ==== Sys2Proof/Machine/Ops.lean ====
section
/-! DEFINITION. The shared operations: the two data-memory primitives (20_memory.md R110, R112), the write-back of a
retiring instruction (40_pipeline_stages.md R260, R261), taking a status, which is how a fault is taken
(60_exceptions.md R512, R520, R521; there is no return from it, R514), and the sequential program counter. -/

namespace Sys2Proof.Machine

/-! ## Canonical maps and sets -/

/-- The word at a key of a map. -/
def wordAt (a : Nat) : List (Nat × Word) → Option Word
  | [] => none
  | (k, v) :: rest => if k = a then some v else wordAt a rest

/-- The map with the word at one key replaced or added, in rising key order. -/
def insertWord (a : Nat) (v : Word) : List (Nat × Word) → List (Nat × Word)
  | [] => [(a, v)]
  | (k, w) :: rest =>
    if a < k then (a, v) :: (k, w) :: rest
    else if a = k then (a, v) :: rest
    else (k, w) :: insertWord a v rest

/-- The set with one address added, in rising order. -/
def insertAddr (a : Nat) : List Nat → List Nat
  | [] => [a]
  | k :: rest =>
    if a < k then a :: k :: rest
    else if a = k then k :: rest
    else k :: insertAddr a rest

/-- Strictly rising. -/
def rising : List Nat → Bool
  | [] => true
  | [_] => true
  | a :: b :: rest => decide (a < b) && rising (b :: rest)

/-- The canonical form of memory: WMem and ReadSet in strictly rising order, and an image whose every address is an
`int32` (00_scope.md R8: N < 2^31). An entry of WMem equal to the image word is no redundancy: being a key of WMem
decides whether a read marks ReadSet (20_memory.md R110; log 15). -/
def Memory.wf (m : Memory) : Bool :=
  rising (m.wmem.map Prod.fst) && rising m.readSet && decide (m.image.length < 2147483648)

/-! ## The image -/

/-- `Img(a)`; used only inside the image. -/
def imageByte (image : List Byte) (a : Nat) : Byte := image.getD a 0#8

/-- The little-endian word of the image at `a` (20_memory.md R104, R110). -/
def imageWord (image : List Byte) (a : Nat) : Word :=
  le32 (imageByte image a) (imageByte image (a + 1)) (imageByte image (a + 2)) (imageByte image (a + 3))

/-- The image of a sequence of hexadecimal digits, two a byte, the first the high nibble (20_memory.md R100, D30). -/
def imageOfDigits : List Nibble → List Byte
  | hi :: lo :: rest => (hi ++ lo : Byte) :: imageOfDigits rest
  | _ => []

/-! ## The data primitives -/

/-- What a data read answers: `ok`, the value, and the memory after it. -/
structure ReadResult where
  ok    : Bool
  value : Word
  mem   : Memory
deriving DecidableEq, Repr

/-- `MemRead(a)` (20_memory.md R110): a hit leaves all as it is; a miss inside the image stores the image word in
WMem and marks ReadSet; any other miss fails with 0 and changes nothing. -/
def Memory.read (m : Memory) (a : Word) : ReadResult :=
  match wordAt a.toNat m.wmem with
  | some v => ⟨true, v, m⟩
  | none =>
    if a.toInt < 0 ∨ (m.image.length : Int) < a.toInt + 4 then ⟨false, 0#32, m⟩
    else
      ⟨true, imageWord m.image a.toNat,
        { m with
          wmem := insertWord a.toNat (imageWord m.image a.toNat) m.wmem
          readSet := insertAddr a.toNat m.readSet }⟩

/-- What a data write answers: `ok`, and the memory after it. -/
structure WriteResult where
  ok  : Bool
  mem : Memory
deriving DecidableEq, Repr

/-- `MemWrite(a, v)` (20_memory.md R112): fails at a negative address and at one in ReadSet, changing nothing. -/
def Memory.write (m : Memory) (a : Word) (v : Word) : WriteResult :=
  if a.toInt < 0 ∨ a.toNat ∈ m.readSet then ⟨false, m⟩
  else ⟨true, { m with wmem := insertWord a.toNat v m.wmem }⟩

/-- The value a read at `a` gives, without its effect: what the model's read of one data word answers. -/
def Memory.peek (m : Memory) (a : Word) : Option Word :=
  if (m.read a).ok then some (m.read a).value else none

/-! ## Statuses -/

/-- FAULTY: the statuses that stop the run (00_scope.md R15). -/
def Status.faulty : Status → Bool
  | .addressError => true
  | .invalidInstruction => true
  | .halt => true
  | _ => false

/-- Taking the status of a retiring instruction: the global status takes every status but Bubble, and a status of
FAULTY ends the run (60_exceptions.md R512, R520, R521). Nothing is saved, no mode changes and control goes nowhere. -/
def State.takeStatus (s : State) (st : Status) : State :=
  { s with
    stat := if st = .bubble then s.stat else st
    halted := s.halted || st.faulty }

/-- Ok, or AddressError for a failed data access (40_pipeline_stages.md R254). -/
def accessStatus (ok : Bool) : Status := if ok then .ok else .addressError

/-! ## Write-back -/

/-- The write-back of an instruction with status `st` (40_pipeline_stages.md R260, R261): with status Ok the ALU
result first, then the memory value; a bubble writes nothing; a stopping status writes nothing (FAULT_WB = suppress)
or leaves free values in the destinations (FAULT_WB = any; log 8). -/
def State.commit (s : State) (st : Status) (dstE : RegId) (valE : Word) (dstM : RegId) (valM : Word) : State :=
  if st = .ok then (s.writeReg dstE valE).writeReg dstM valM
  else if st.faulty then
    match s.cfg.faultWB with
    | .suppress => s
    | .any =>
      { (s.writeReg dstE (Config.faultWrite s.freeIndex)).writeReg dstM (Config.faultWrite (s.freeIndex + 1)) with
        freeIndex := s.freeIndex + 2 }
  else s

/-! ## The instruction view -/

/-- The address of the next instruction in the instruction view: `F.predPC` (log 2). -/
def State.seqPC (s : State) : Word := s.F.predPC

/-- The next instruction is at `pc`: F holds it, and so does the wire F latches from (log 2). -/
def State.setSeqPC (s : State) (pc : Word) : State :=
  { s with F := { s.F with predPC := pc }, fOut := { s.fOut with predPC := pc } }

/-- The memory replaced. -/
def State.setMem (s : State) (m : Memory) : State := { s with mem := m }

/-- An instruction retires with status Ok: the status is taken and the next instruction is at `pc`. -/
def State.retireTo (s : State) (pc : Word) : State := (s.takeStatus .ok).setSeqPC pc

/-- An instruction with one data access retires: with `ok` its results are written and the next instruction is at
`pc`; otherwise the access failed, the fault is taken, and the write-back is that of an AddressError. -/
def State.retireAccess (s : State) (ok : Bool) (dstE : RegId) (valE : Word) (dstM : RegId) (valM : Word)
    (pc : Word) : State :=
  if ok then (s.commit .ok dstE valE dstM valM).retireTo pc
  else (s.commit .addressError dstE valE dstM valM).takeStatus .addressError

/-- Run the rest of a meaning, unless the value of a RNONE source would be used (30_encoding.md R174; log 11). -/
def usingSource (icode : ICode) (src : RegId) (rest : Outcome) : Outcome :=
  match src with
  | none => .refused (.noneSource icode)
  | some _ => rest

/-- Two used sources. -/
def usingSources (icode : ICode) (srcA srcB : RegId) (rest : Outcome) : Outcome :=
  usingSource icode srcA (usingSource icode srcB rest)

end Sys2Proof.Machine
end

