-- ==== Sys2Proof/Machine/Fetch.lean ====
section
/-! DEFINITION. The fetch stage (40_pipeline_stages.md R210 to R219) and the fetch of the instruction view. -/

namespace Sys2Proof.Machine

/-- The address is outside the image (40_pipeline_stages.md R211). -/
def outsideImage (image : List Byte) (pc : Word) : Bool :=
  decide (pc.toInt < 0 ∨ (image.length : Int) ≤ pc.toInt)

/-- The wires of a failed fetch (40_pipeline_stages.md R216; DESIGN CHOICE of the spec, D7, D38; log 16). -/
def fetchFails (pc : Word) : FetchOut :=
  { pc := pc
    stat := .addressError
    icode := .inop
    ifun := 0#4
    rA := none
    rB := none
    valC := 0#32
    valP := pc + 1#32
    predPC := pc + 1#32 }

/-- The status of a fetch that did not fail (40_pipeline_stages.md R217). -/
def fetchStatus (icode : ICode) : Status :=
  if icode = .ihalt then .halt else if icode.valid then .ok else .invalidInstruction

/-- The predicted next address (40_pipeline_stages.md R219): every jump and call is predicted taken. -/
def predictPC (icode : ICode) (valC valP : Word) : Word :=
  if icode = .ijxx ∨ icode = .icall then valC else valP

/-- The fetch wires at an address (40_pipeline_stages.md R211 to R219). Fetch reads the image only (20_memory.md R123). -/
def fetchAt (image : List Byte) (pc : Word) : FetchOut :=
  if outsideImage image pc then fetchFails pc
  else
    match readFields (image.drop pc.toNat) with
    | .error _ => fetchFails pc
    | .ok (fl, _) =>
      { pc := pc
        stat := fetchStatus fl.icode
        icode := fl.icode
        ifun := fl.ifun
        rA := fl.rA
        rB := fl.rB
        valC := fl.valC
        valP := pc + BitVec.ofNat 32 fl.icode.length
        predPC := predictPC fl.icode fl.valC (pc + BitVec.ofNat 32 fl.icode.length) }

/-- `f_pc`, the address fetched in a cycle (40_pipeline_stages.md R210): the fall-through address of a mispredicted jump
in M, else the return address of a ret in W, else the prediction. -/
def State.fetchPC (s : State) : Word :=
  if s.M.icode = .ijxx ∧ s.M.cnd = false then s.M.valA
  else if s.W.icode = .iret then s.W.valM
  else s.F.predPC

/-- The fetch computation of a cycle (40_pipeline_stages.md R210 to R219). -/
def State.fetchCompute (s : State) : State := { s with fOut := fetchAt s.mem.image s.fetchPC }

/-- What the fetch of the instruction view finds. -/
inductive Fetched where
  /-- an instruction -/
  | instr (i : Instr)
  /-- a fetch failure or an invalid opcode: a status to take (40_pipeline_stages.md R216, R217) -/
  | stop (st : Status)
  /-- a function code without meaning: refused (30_encoding.md R172) -/
  | undefined (icode : ICode) (ifun : Nibble)
deriving DecidableEq, Repr

/-- The fetch of the instruction view at `seqPC`: the same image, bounds and decoder as the fetch stage. -/
def State.fetchInstr (s : State) : Fetched :=
  if outsideImage s.mem.image s.seqPC then .stop .addressError
  else
    match decode (s.mem.image.drop s.seqPC.toNat) with
    | .ok (i, _) => .instr i
    | .error (.fields _) => .stop .addressError
    | .error (.invalidOpcode _) => .stop .invalidInstruction
    | .error (.undefinedFunction icode ifun) => .undefined icode ifun

/-- A fetch that fails or finds an invalid opcode stops the machine as an instruction with that status and no
destination (41_misc.md R302; 30_encoding.md R170). -/
def State.stopAtFetch (s : State) (st : Status) : State :=
  (s.commit st none 0#32 none 0#32).takeStatus st

/-- The image with bytes placed at an address, a gap before them filled with zeros (30_encoding.md R179). -/
def placeBytes (image : List Byte) (a : Nat) (bytes : List Byte) : List Byte :=
  image.take a ++ List.replicate (a - image.length) 0#8 ++ bytes ++ image.drop (a + bytes.length)

/-- Where the bytes of `withFetchWord` go: `seqPC`, or 0 where they would pass the end of the address space. -/
def State.placeAddr (s : State) : Word :=
  if s.seqPC.toNat + 6 < 2147483648 then s.seqPC else 0#32

end Sys2Proof.Machine
end

