-- ==== Sys2Proof/Machine/Hazard.lean ====
section
/-! DEFINITION. The hazard controller (70_reset_and_hazards.md R610 to R616) and the latches (R620, R621;
40_pipeline_stages.md R202). -/

namespace Sys2Proof.Machine

/-- What a latch does in a cycle (40_pipeline_stages.md R201). -/
inductive LatchMode where
  | stall
  | bubble
  | latch
deriving DecidableEq, Repr

/-- One mode per pipeline register (70_reset_and_hazards.md R610). -/
structure Controls where
  F : LatchMode
  D : LatchMode
  E : LatchMode
  M : LatchMode
  W : LatchMode
deriving DecidableEq, Repr

/-- The load/use hazard (70_reset_and_hazards.md R611): a load in E whose memory destination is a source of the
instruction in D; RNONE never matches. -/
def State.loadUse (s : State) : Bool :=
  decide ((s.E.icode = .imrmovl ∨ s.E.icode = .ipopl) ∧ s.E.dstM ≠ none ∧
    (s.E.dstM = s.dOut.srcA ∨ s.E.dstM = s.dOut.srcB))

/-- The return hazard (70_reset_and_hazards.md R612): a ret in D, E or M. -/
def State.retHazard (s : State) : Bool :=
  decide (s.D.icode = .iret ∨ s.E.icode = .iret ∨ s.M.icode = .iret)

/-- The misprediction hazard (70_reset_and_hazards.md R613): a jump in E whose condition came out false. -/
def State.mispredict (s : State) : Bool :=
  decide (s.E.icode = .ijxx) && !s.eOut.cnd

/-- The fault drain (70_reset_and_hazards.md R614): a stopping status has left memory or stands in W. -/
def State.drain (s : State) : Bool := s.mOut.stat.faulty || s.W.stat.faulty

/-- The mode of every latch, from pre-cycle values (70_reset_and_hazards.md R610): a stall takes precedence over a
bubble (R615), and M and W never stall (R616). -/
def State.hazardDecisions (s : State) : Controls :=
  { F := if s.loadUse || s.retHazard then .stall else if s.drain then .bubble else .latch
    D := if s.loadUse then .stall else if s.mispredict || s.retHazard || s.drain then .bubble else .latch
    E := if s.mispredict || s.loadUse || s.drain then .bubble else .latch
    M := if s.drain then .bubble else .latch
    W := .latch }

/-- The W latch (40_pipeline_stages.md R202). -/
def State.latchW (s : State) (mode : LatchMode) : State :=
  match mode with
  | .stall => s
  | .bubble => { s with W := WReg.bubble }
  | .latch => { s with W := s.mOut }

/-- The M latch (40_pipeline_stages.md R202). -/
def State.latchM (s : State) (mode : LatchMode) : State :=
  match mode with
  | .stall => s
  | .bubble => { s with M := MReg.bubble }
  | .latch => { s with M := s.eOut }

/-- The E latch (40_pipeline_stages.md R202). -/
def State.latchE (s : State) (mode : LatchMode) : State :=
  match mode with
  | .stall => s
  | .bubble => { s with E := EReg.bubble }
  | .latch => { s with E := s.dOut }

/-- What D takes from the fetch wires (40_pipeline_stages.md R202). -/
def FetchOut.toD (f : FetchOut) : DReg := ⟨f.stat, f.icode, f.ifun, f.rA, f.rB, f.valC, f.valP⟩

/-- The D latch (40_pipeline_stages.md R202). -/
def State.latchD (s : State) (mode : LatchMode) : State :=
  match mode with
  | .stall => s
  | .bubble => { s with D := DReg.bubble }
  | .latch => { s with D := s.fOut.toD }

/-- The F latch (40_pipeline_stages.md R202): `F.stat <- Ok` is D19; a bubbled F takes the predicted address too
(70_reset_and_hazards.md R621, D27; log 12, log 19). -/
def State.latchF (s : State) (mode : LatchMode) : State :=
  match mode with
  | .stall => s
  | .bubble => { s with F := ⟨.bubble, s.fOut.predPC⟩ }
  | .latch => { s with F := ⟨.ok, s.fOut.predPC⟩ }

end Sys2Proof.Machine
end

