-- ==== Sys2Proof/Machine/Stages.lean ====
section
/-! DEFINITION. The decode, execute, memory and write-back computations of a clock cycle
(40_pipeline_stages.md R220 to R262). -/

namespace Sys2Proof.Machine

/-! ## Write-back -/

/-- The write-back computation (40_pipeline_stages.md R260, R261). -/
def State.writebackCompute (s : State) : State :=
  s.commit s.W.stat s.W.dstE s.W.valE s.W.dstM s.W.valM

/-! ## Memory -/

/-- The memory wires of register M, given the outcome of its access (40_pipeline_stages.md R253, R254). -/
def memoryOut (M : MReg) (accessOk : Bool) (valM : Word) : WReg :=
  { stat := if accessOk then M.stat else .addressError
    icode := M.icode
    valE := M.valE
    valM := valM
    dstE := M.dstE
    dstM := M.dstM }

/-- The memory computation (40_pipeline_stages.md R250 to R254): only an instruction with status Ok accesses memory
(D13; log 17), and `m_valM` is 0 where nothing is read (D11). -/
def State.memoryCompute (s : State) : State :=
  if s.M.stat = .ok ∧ memReads s.M.icode then
    let r := s.mem.read (memAddr s.M)
    { s with mem := r.mem, mOut := memoryOut s.M r.ok r.value }
  else if s.M.stat = .ok ∧ memWrites s.M.icode then
    let w := s.mem.write (memAddr s.M) s.M.valA
    { s with mem := w.mem, mOut := memoryOut s.M w.ok 0#32 }
  else { s with mOut := memoryOut s.M true 0#32 }

/-! ## Execute -/

/-- The unwrapped ALU result of register E (40_pipeline_stages.md R241, R242, R245); a free value for a function code
without meaning (log 13). -/
def execPre (E : EReg) : Int :=
  match aluFunOf E with
  | some f => aluPre f (aluBOf E) (aluAOf E)
  | none => Config.undefinedAlu E.ifun (aluBOf E) (aluAOf E)

/-- `e_Cnd` (40_pipeline_stages.md R247): the condition of `ifun` on the flags before this cycle's flag write, for every
icode; false for a function code without condition of an icode that does not use it (D22), a free value for one that
does (log 13). -/
def cndValue (E : EReg) (cc : CC) : Bool :=
  match Cond.ofNibble? E.ifun with
  | some c => condHolds c cc
  | none => if E.icode = .ijxx ∨ E.icode = .irrmovl then Config.undefinedCond E.ifun cc else false

/-- `e_dstE` (40_pipeline_stages.md R246): a failed conditional move has no destination. -/
def execDstE (E : EReg) (cnd : Bool) : RegId :=
  if E.icode = .irrmovl ∧ cnd = false then none else E.dstE

/-- A stopping status stands in the memory stage's output or in W: what E holds is going to be squashed, and its
flags are not written (40_pipeline_stages.md R243; 70_reset_and_hazards.md R614). -/
def State.olderFault (s : State) : Bool := s.mOut.stat.faulty || s.W.stat.faulty

/-- `set_cc` (40_pipeline_stages.md R243). -/
def State.setsCC (s : State) : Bool := decide (s.E.icode = .iopl) && !s.olderFault

/-- The execute wires (40_pipeline_stages.md R240, R245 to R247). -/
def execOut (E : EReg) (cc : CC) : MReg :=
  { stat := E.stat
    icode := E.icode
    cnd := cndValue E cc
    valE := wrap32 (execPre E)
    valA := E.valA
    dstE := execDstE E (cndValue E cc)
    dstM := E.dstM }

/-- The execute computation (40_pipeline_stages.md R240 to R247). -/
def State.executeCompute (s : State) : State :=
  { s with
    eOut := execOut s.E s.cc
    cc := if s.setsCC then flagsOf (execPre s.E) else s.cc }

/-- The function code of E has no meaning (30_encoding.md R172). -/
def undefinedFunction (E : EReg) : Bool :=
  match E.icode with
  | .iopl => (AluFun.ofNibble? E.ifun).isNone
  | .ijxx => (Cond.ofNibble? E.ifun).isNone
  | .irrmovl => (Cond.ofNibble? E.ifun).isNone
  | _ => false

/-- A source of E whose value is used is RNONE (30_encoding.md R174). -/
def usesNoneSource (E : EReg) : Bool :=
  match E.icode with
  | .irrmovl => E.srcA.isNone
  | .irmmovl => E.srcA.isNone || E.srcB.isNone
  | .imrmovl => E.srcB.isNone
  | .iopl => E.srcA.isNone || E.srcB.isNone
  | .ipushl => E.srcA.isNone
  | _ => false

/-- Why the spec refuses the program whose instruction is in E: the instruction has status Ok and no older fault is
going to squash it, so it executes, and it has a function code without meaning (30_encoding.md R172; log 10) or uses
a RNONE source (R174; log 11). -/
def State.executeRefusal (s : State) : Option Refusal :=
  if s.E.stat = .ok ∧ s.olderFault = false then
    if undefinedFunction s.E then some (.undefinedFunctionCode s.E.icode s.E.ifun)
    else if usesNoneSource s.E then some (.noneSource s.E.icode)
    else none
  else none

/-! ## Decode -/

/-- The forwarding multiplexer (40_pipeline_stages.md R230): RNONE reads 0 and never matches (D20; log 11). -/
def State.forward (s : State) (src : RegId) : Word :=
  if src = none then 0#32
  else if src = s.eOut.dstE then s.eOut.valE
  else if src = s.M.dstM then s.mOut.valM
  else if src = s.M.dstE then s.M.valE
  else if src = s.W.dstM then s.W.valM
  else if src = s.W.dstE then s.W.valE
  else s.readReg src

/-- `d_valA` (40_pipeline_stages.md R225). -/
def State.decodeValA (s : State) : Word :=
  if s.D.icode = .icall ∨ s.D.icode = .ijxx then s.D.valP else s.forward (srcAOf s.D)

/-- The decode computation (40_pipeline_stages.md R220 to R227). -/
def State.decodeCompute (s : State) : State :=
  { s with
    dOut :=
      { stat := s.D.stat
        icode := s.D.icode
        ifun := s.D.ifun
        valC := s.D.valC
        valA := s.decodeValA
        valB := s.forward (srcBOf s.D)
        dstE := dstEOf s.D
        dstM := dstMOf s.D
        srcA := srcAOf s.D
        srcB := srcBOf s.D } }

end Sys2Proof.Machine
end

