-- ==== Sys2Proof/Machine/Cycle.lean ====
section
/-! DEFINITION. One clock cycle (40_pipeline_stages.md R200) and its end (60_exceptions.md R520 to R523;
70_reset_and_hazards.md R640). -/

namespace Sys2Proof.Machine

/-- The log entry of a cycle: registers and flags from its start, pipeline registers from its end
(60_exceptions.md R531, D34; log 20). -/
def State.logEntry (s : State) (preRegs : RegFile) (preCC : CC) : LogEntry :=
  { regs := preRegs, cc := preCC, F := s.F, D := s.D, E := s.E, M := s.M, W := s.W }

/-- The end of a cycle (60_exceptions.md R521, R522; 70_reset_and_hazards.md R640): the status in W is taken, the entry
is logged, the counter advances, and the run ends at a stopping status or at the bound. -/
def State.endOfCycle (s : State) (preRegs : RegFile) (preCC : CC) : State :=
  { s.takeStatus s.W.stat with
    log := s.log ++ [s.logEntry preRegs preCC]
    cycle := s.cycle + 1
    halted := (s.takeStatus s.W.stat).halted || decide (s.maxCycles ≤ s.cycle + 1) }

/-- The back of a cycle, with the modes decided: the W and M latches and computations and the E latch
(40_pipeline_stages.md R200). -/
def State.backEnd (s : State) (ctl : Controls) : State :=
  (((s.latchW ctl.W).writebackCompute.latchM ctl.M).memoryCompute).latchE ctl.E

/-- The front of a cycle: the execute computation, then decode and fetch (40_pipeline_stages.md R200). -/
def State.frontEnd (s : State) (ctl : Controls) : State :=
  (((s.executeCompute.latchD ctl.D).decodeCompute).latchF ctl.F).fetchCompute

/-- One clock cycle (40_pipeline_stages.md R200): the modes first, from pre-cycle values (R201), then the ten steps, then
the end of the cycle. It is refused where the instruction in E is one the spec refuses to execute. -/
def State.clock (s : State) : Outcome :=
  let mid := s.backEnd s.hazardDecisions
  match mid.executeRefusal with
  | some r => .refused r
  | none => .next ((mid.frontEnd s.hazardDecisions).endOfCycle s.regs s.cc)

/-- `stepOneCycle()` (60_exceptions.md R530): nothing changes after the run has ended (R523, D28; log 19). -/
def State.stepOneCycle (s : State) : Outcome :=
  if s.halted then .next s else s.clock

end Sys2Proof.Machine
end

