-- ==== Sys2Proof/Machine/HostInterface.lean ====
section
/-! DEFINITION. The host's entry points (60_exceptions.md R530); `stepOneCycle` is in Machine/Cycle.lean. -/

namespace Sys2Proof.Machine

/-- `configure(maxCycles)`: bounds the run and changes nothing else (60_exceptions.md R530). -/
def State.configure (s : State) (maxCycles : Nat) : State := { s with maxCycles := maxCycles }

/-- `load(image)`: the reset procedure (70_reset_and_hazards.md R600); MAX_CYCLES, the parameters and the model's own
fields keep their values. -/
def State.load (s : State) (image : List Byte) : State :=
  State.loaded s.cfg s.maxCycles s.view s.freeIndex image

/-- `globalStatus` (60_exceptions.md R530; 10_state.md R64). -/
def State.globalStatus (s : State) : Status := s.stat

/-- `n` calls of `stepOneCycle()`, ending early at a refusal. -/
def State.runCycles : Nat → State → Outcome
  | 0, s => .next s
  | n + 1, s =>
    match s.stepOneCycle with
    | .next t => State.runCycles n t
    | .fault r => .fault r
    | .refused r => .refused r

/-- `runToCompletion()`: cycles until the run has ended (60_exceptions.md R530). The bound ends every run within
`max 1 (MAX_CYCLES - cycle)` cycles (R522), and calls after the end change nothing (R523). -/
def State.runToCompletion (s : State) : Outcome := State.runCycles (max 1 (s.maxCycles - s.cycle)) s

end Sys2Proof.Machine
end

