-- ==== Sys2Proof/Machine/Alu.lean ====
section
/-! DEFINITION. The meanings of the arithmetic and logic instructions (43_alu_ops.md). -/

namespace Sys2Proof.Machine

/-- The OPl row (43_alu_ops.md R344, R345): `R[rB]` takes the wrapped result and the three flags describe the unwrapped
one; the next instruction is at `pc + 2`. RNONE as `rA` or `rB` is refused (R347). -/
def State.aluOp (s : State) (f : AluFun) (rA rB : RegId) : Outcome :=
  usingSources .iopl rA rB
    (let pre := aluPre f (s.readReg rB) (s.readReg rA)
     .next (((s.setCC (flagsOf pre)).commit .ok rB (wrap32 pre) none 0#32).retireTo (s.seqPC + 2#32)))

/-- `addl rA, rB` adds: `R[rB] + R[rA]` (43_alu_ops.md R340). -/
def execAddl (rA rB : RegId) (s : State) : Outcome := s.aluOp .add rA rB

/-- `subl rA, rB` subtracts: `R[rB] - R[rA]` (43_alu_ops.md R341). -/
def execSubl (rA rB : RegId) (s : State) : Outcome := s.aluOp .sub rA rB

/-- `andl rA, rB` is bitwise and (43_alu_ops.md R342). -/
def execAndl (rA rB : RegId) (s : State) : Outcome := s.aluOp .and rA rB

/-- `xorl rA, rB` is bitwise exclusive or (43_alu_ops.md R343). -/
def execXorl (rA rB : RegId) (s : State) : Outcome := s.aluOp .xor rA rB

end Sys2Proof.Machine
end

