-- ==== Sys2Proof/Machine/Control.lean ====
section
/-! DEFINITION. The meanings of the control-transfer instructions (44_control.md). -/

namespace Sys2Proof.Machine

/-- The jump row (44_control.md R369, R370): the next instruction is at the absolute target when the condition holds on
the flags, else at `pc + 5`; nothing else changes. -/
def State.jumpWhen (s : State) (c : Cond) (dest : Word) : Outcome :=
  .next (s.retireTo (if condHolds c s.cc then dest else s.seqPC + 5#32))

/-- `jmp Dest` jumps unconditionally (44_control.md R360). -/
def execJmp (dest : Word) (s : State) : Outcome := s.jumpWhen .always dest

/-- `jle Dest` jumps if less or equal (44_control.md R361). -/
def execJle (dest : Word) (s : State) : Outcome := s.jumpWhen .le dest

/-- `jl Dest` jumps if less (44_control.md R362). -/
def execJl (dest : Word) (s : State) : Outcome := s.jumpWhen .l dest

/-- `je Dest` jumps if equal (44_control.md R363). -/
def execJe (dest : Word) (s : State) : Outcome := s.jumpWhen .e dest

/-- `jne Dest` jumps if not equal (44_control.md R364). -/
def execJne (dest : Word) (s : State) : Outcome := s.jumpWhen .ne dest

/-- `jge Dest` jumps if greater or equal (44_control.md R365). -/
def execJge (dest : Word) (s : State) : Outcome := s.jumpWhen .ge dest

/-- `jg Dest` jumps if greater (44_control.md R366). -/
def execJg (dest : Word) (s : State) : Outcome := s.jumpWhen .g dest

/-- `call Dest` (44_control.md R367): the return address `pc + 5` is written at `wrap32(R[%esp] - 4)`, which becomes the
new `%esp`; the next instruction is at `Dest`; AddressError when the write fails. -/
def execCall (_ifun : Nibble) (dest : Word) (s : State) : Outcome :=
  let sp := s.readReg espId - 4#32
  let w := s.mem.write sp (s.seqPC + 5#32)
  .next ((s.setMem w.mem).retireAccess w.ok espId sp none 0#32 dest)

/-- `ret` (44_control.md R368): the next instruction is at the word read at the old `%esp`, and `%esp` becomes
`wrap32(R[%esp] + 4)`; AddressError when the read fails. -/
def execRet (_ifun : Nibble) (s : State) : Outcome :=
  let r := s.mem.read (s.readReg espId)
  .next ((s.setMem r.mem).retireAccess r.ok espId (s.readReg espId + 4#32) none 0#32 r.value)

end Sys2Proof.Machine
end

