-- ==== Sys2Proof/Machine/Misc.lean ====
section
/-! DEFINITION. The meanings of halt and nop (41_misc.md). -/

namespace Sys2Proof.Machine

/-- `halt` (41_misc.md R300): the status Halt is taken and the run ends; `ifun` is ignored. -/
def execHalt (_ifun : Nibble) (s : State) : Outcome :=
  .next ((s.commit .halt none 0#32 none 0#32).takeStatus .halt)

/-- `nop` (41_misc.md R301): the next instruction is at `pc + 1`; `ifun` is ignored. -/
def execNop (_ifun : Nibble) (s : State) : Outcome :=
  .next (s.retireTo (s.seqPC + 1#32))

end Sys2Proof.Machine
end

