-- ==== Sys2Proof/Machine/Moves.lean ====
section
/-! DEFINITION. The meanings of the move instructions (42_moves.md). -/

namespace Sys2Proof.Machine

/-- The register-move row (42_moves.md R320, R321): `R[rB] <- R[rA]` when the condition holds on the flags; no flag is
written; the next instruction is at `pc + 2`. RNONE as `rB` writes nothing, RNONE as `rA` is refused. -/
def State.moveWhen (s : State) (c : Cond) (rA rB : RegId) : Outcome :=
  usingSource .irrmovl rA
    (.next ((s.commit .ok (if condHolds c s.cc then rB else none) (s.readReg rA) none 0#32).retireTo
      (s.seqPC + 2#32)))

/-- `rrmovl rA, rB` copies a register (42_moves.md R310). -/
def execRrmovl (rA rB : RegId) (s : State) : Outcome := s.moveWhen .always rA rB

/-- `cmovle rA, rB` moves if less or equal (42_moves.md R311). -/
def execCmovle (rA rB : RegId) (s : State) : Outcome := s.moveWhen .le rA rB

/-- `cmovl rA, rB` moves if less (42_moves.md R312). -/
def execCmovl (rA rB : RegId) (s : State) : Outcome := s.moveWhen .l rA rB

/-- `cmove rA, rB` moves if equal (42_moves.md R313). -/
def execCmove (rA rB : RegId) (s : State) : Outcome := s.moveWhen .e rA rB

/-- `cmovne rA, rB` moves if not equal (42_moves.md R314). -/
def execCmovne (rA rB : RegId) (s : State) : Outcome := s.moveWhen .ne rA rB

/-- `cmovge rA, rB` moves if greater or equal (42_moves.md R315). -/
def execCmovge (rA rB : RegId) (s : State) : Outcome := s.moveWhen .ge rA rB

/-- `cmovg rA, rB` moves if greater (42_moves.md R316). -/
def execCmovg (rA rB : RegId) (s : State) : Outcome := s.moveWhen .g rA rB

/-- `irmovl $V, rB` loads a constant (42_moves.md R317); `ifun` and `rA` are ignored; next at `pc + 6`. -/
def execIrmovl (_ifun : Nibble) (_rA rB : RegId) (v : Word) (s : State) : Outcome :=
  .next ((s.commit .ok rB v none 0#32).retireTo (s.seqPC + 6#32))

/-- `rmmovl rA, D(rB)` stores a register (42_moves.md R318): `MemWrite(wrap32(R[rB] + D), R[rA])`; next at `pc + 6`;
AddressError when the write fails. -/
def execRmmovl (_ifun : Nibble) (rA rB : RegId) (d : Word) (s : State) : Outcome :=
  usingSources .irmmovl rA rB
    (let w := s.mem.write (s.readReg rB + d) (s.readReg rA)
     .next ((s.setMem w.mem).retireAccess w.ok none 0#32 none 0#32 (s.seqPC + 6#32)))

/-- `mrmovl D(rB), rA` loads a register (42_moves.md R319): `R[rA] <- MemRead(wrap32(R[rB] + D))`; next at `pc + 6`;
AddressError when the read fails. -/
def execMrmovl (_ifun : Nibble) (rA rB : RegId) (d : Word) (s : State) : Outcome :=
  usingSource .imrmovl rB
    (let r := s.mem.read (s.readReg rB + d)
     .next ((s.setMem r.mem).retireAccess r.ok none 0#32 rA r.value (s.seqPC + 6#32)))

end Sys2Proof.Machine
end

