-- ==== Sys2Proof/Machine/Stack.lean ====
section
/-! DEFINITION. The meanings of the stack instructions (45_stack.md). -/

namespace Sys2Proof.Machine

/-- `pushl rA` (45_stack.md R390): the old value of `rA` is written at `wrap32(R[%esp] - 4)`, which becomes the new
`%esp`; next at `pc + 2`; AddressError when the write fails. `ifun` and `rB` are ignored; RNONE as `rA` is refused. -/
def execPushl (_ifun : Nibble) (rA _rB : RegId) (s : State) : Outcome :=
  usingSource .ipushl rA
    (let sp := s.readReg espId - 4#32
     let w := s.mem.write sp (s.readReg rA)
     .next ((s.setMem w.mem).retireAccess w.ok espId sp none 0#32 (s.seqPC + 2#32)))

/-- `popl rA` (45_stack.md R391): the word at the old `%esp` is read, `%esp` becomes `wrap32(R[%esp] + 4)`, then `rA`
takes the word (so `popl %esp` leaves the word in `%esp`: 40_pipeline_stages.md R261); next at `pc + 2`; AddressError
when the read fails. `ifun` and `rB` are ignored. -/
def execPopl (_ifun : Nibble) (rA _rB : RegId) (s : State) : Outcome :=
  let r := s.mem.read (s.readReg espId)
  .next ((s.setMem r.mem).retireAccess r.ok espId (s.readReg espId + 4#32) rA r.value (s.seqPC + 2#32))

end Sys2Proof.Machine
end

