-- ==== Sys2Proof/Machine/Dispatch.lean ====
section
/-! DEFINITION. Which meaning each instruction has: one arm per constructor of `Instr`. -/

namespace Sys2Proof.Machine

def exec (i : Instr) (s : State) : Host.Outcome State Fault Refusal :=
  match i with
  | .halt ifun => Sys2Proof.Machine.execHalt ifun s
  | .nop ifun => Sys2Proof.Machine.execNop ifun s
  | .rrmovl rA rB => Sys2Proof.Machine.execRrmovl rA rB s
  | .cmovle rA rB => Sys2Proof.Machine.execCmovle rA rB s
  | .cmovl rA rB => Sys2Proof.Machine.execCmovl rA rB s
  | .cmove rA rB => Sys2Proof.Machine.execCmove rA rB s
  | .cmovne rA rB => Sys2Proof.Machine.execCmovne rA rB s
  | .cmovge rA rB => Sys2Proof.Machine.execCmovge rA rB s
  | .cmovg rA rB => Sys2Proof.Machine.execCmovg rA rB s
  | .irmovl ifun rA rB v => Sys2Proof.Machine.execIrmovl ifun rA rB v s
  | .rmmovl ifun rA rB d => Sys2Proof.Machine.execRmmovl ifun rA rB d s
  | .mrmovl ifun rA rB d => Sys2Proof.Machine.execMrmovl ifun rA rB d s
  | .addl rA rB => Sys2Proof.Machine.execAddl rA rB s
  | .subl rA rB => Sys2Proof.Machine.execSubl rA rB s
  | .andl rA rB => Sys2Proof.Machine.execAndl rA rB s
  | .xorl rA rB => Sys2Proof.Machine.execXorl rA rB s
  | .jmp dest => Sys2Proof.Machine.execJmp dest s
  | .jle dest => Sys2Proof.Machine.execJle dest s
  | .jl dest => Sys2Proof.Machine.execJl dest s
  | .je dest => Sys2Proof.Machine.execJe dest s
  | .jne dest => Sys2Proof.Machine.execJne dest s
  | .jge dest => Sys2Proof.Machine.execJge dest s
  | .jg dest => Sys2Proof.Machine.execJg dest s
  | .call ifun dest => Sys2Proof.Machine.execCall ifun dest s
  | .ret ifun => Sys2Proof.Machine.execRet ifun s
  | .pushl ifun rA rB => Sys2Proof.Machine.execPushl ifun rA rB s
  | .popl ifun rA rB => Sys2Proof.Machine.execPopl ifun rA rB s

end Sys2Proof.Machine
end

