-- ==== Sys2Proof/Machine/Sequence.lean ====
section
/-! DEFINITION. The instruction view: one instruction at a time (70_reset_and_hazards.md R630; log 1). -/

namespace Sys2Proof.Machine

/-- One instruction (70_reset_and_hazards.md R630): the instruction at `seqPC` runs by its meaning; a failed fetch or an
invalid opcode stops the machine; nothing changes after the run has ended (60_exceptions.md R523). -/
def State.stepInstruction (s : State) : Host.Outcome State Fault Refusal :=
  if s.halted then .next s
  else
    match s.fetchInstr with
    | .instr i => exec i s
    | .stop st => .next (s.stopAtFetch st)
    | .undefined icode ifun => .refused (.undefinedFunctionCode icode ifun)

/-- `n` instructions, ending early at a refusal. -/
def State.runInstructions : Nat → State → Host.Outcome State Fault Refusal
  | 0, s => .next s
  | n + 1, s =>
    match s.stepInstruction with
    | .next t => State.runInstructions n t
    | .fault r => .fault r
    | .refused r => .refused r

end Sys2Proof.Machine
end

