-- ==== Sys2Proof/Machine/Trace.lean ====
section
/-! DEFINITION. How the log writes its fields (60_exceptions.md R532; 95_test_vectors.md V-L): the formats, and which field
of an entry takes which. The layout of the text around them (R533) is not binding and outside the core (00_scope.md R6):
here an entry is written as a list of field names, the spec's own, each with its text. -/

namespace Sys2Proof.Machine

/-- A hexadecimal digit in lower case. -/
def hexDigit (n : Nat) : Char := "0123456789abcdef".toList.getD n '0'

/-- The digits of the nibbles of `n`, most significant first, `k` of them. -/
def hexDigits : Nat → Nat → List Char
  | 0, _ => []
  | k + 1, n => hexDigits k (n / 16) ++ [hexDigit (n % 16)]

/-- How many hexadecimal digits a number needs, at least one; `fuel` at least the number is enough. -/
def digitCount : Nat → Nat → Nat
  | 0, _ => 1
  | fuel + 1, n => if n < 16 then 1 else digitCount fuel (n / 16) + 1

/-- An unsigned field, the number of a cycle among them: `0x` and the minimal digits (60_exceptions.md R532, D34). -/
def formatUnsigned (n : Nat) : String := "0x" ++ String.ofList (hexDigits (digitCount n n) n)

/-- A signed 32-bit field: `0x` and eight digits of its two's complement (60_exceptions.md R532). -/
def formatWord (w : Word) : String := "0x" ++ String.ofList (hexDigits 8 w.toNat)

/-- A register id, shown as 0..8 (60_exceptions.md R532). -/
def formatRegId (r : RegId) : String := formatUnsigned (RegId.toNibble r).toNat

/-- An opcode, an unsigned field (60_exceptions.md R532). -/
def formatICode (c : ICode) : String := formatUnsigned c.toNibble.toNat

/-- A function code, an unsigned field (60_exceptions.md R532). -/
def formatIFun (n : Nibble) : String := formatUnsigned n.toNat

/-- A boolean, shown as 0 or 1 (60_exceptions.md R532, D31). -/
def formatBool (b : Bool) : String := formatUnsigned (if b then 1 else 0)

/-- A status, shown by its name (60_exceptions.md R532). -/
def formatStatus : Status → String
  | .bubble => "Bubble"
  | .ok => "Ok"
  | .addressError => "AddressError"
  | .invalidInstruction => "InvalidInstruction"
  | .halt => "Halt"

/-! ## The fields of an entry -/

/-- The registers: signed 32-bit fields (60_exceptions.md R532). -/
def RegFile.texts (rf : RegFile) : List (String × String) :=
  [("%eax", formatWord rf.eax), ("%ecx", formatWord rf.ecx), ("%edx", formatWord rf.edx), ("%ebx", formatWord rf.ebx),
    ("%esp", formatWord rf.esp), ("%ebp", formatWord rf.ebp), ("%esi", formatWord rf.esi), ("%edi", formatWord rf.edi)]

/-- The flags: unsigned fields (60_exceptions.md R532). -/
def ccTexts (cc : CC) : List (String × String) :=
  [("ZF", formatBool cc.zf), ("SF", formatBool cc.sf), ("OF", formatBool cc.ovf)]

/-- The fields of F (10_state.md R71) in the formats of 60_exceptions.md R532. -/
def FReg.texts (F : FReg) : List (String × String) :=
  [("F.stat", formatStatus F.stat), ("F.predPC", formatWord F.predPC)]

/-- The fields of D (10_state.md R72) in the formats of 60_exceptions.md R532. -/
def DReg.texts (D : DReg) : List (String × String) :=
  [("D.stat", formatStatus D.stat), ("D.icode", formatICode D.icode), ("D.ifun", formatIFun D.ifun),
    ("D.rA", formatRegId D.rA), ("D.rB", formatRegId D.rB), ("D.valC", formatWord D.valC), ("D.valP", formatWord D.valP)]

/-- The fields of E (10_state.md R73) in the formats of 60_exceptions.md R532. -/
def EReg.texts (E : EReg) : List (String × String) :=
  [("E.stat", formatStatus E.stat), ("E.icode", formatICode E.icode), ("E.ifun", formatIFun E.ifun),
    ("E.valC", formatWord E.valC), ("E.valA", formatWord E.valA), ("E.valB", formatWord E.valB),
    ("E.dstE", formatRegId E.dstE), ("E.dstM", formatRegId E.dstM), ("E.srcA", formatRegId E.srcA),
    ("E.srcB", formatRegId E.srcB)]

/-- The fields of M (10_state.md R74) in the formats of 60_exceptions.md R532. -/
def MReg.texts (M : MReg) : List (String × String) :=
  [("M.stat", formatStatus M.stat), ("M.icode", formatICode M.icode), ("M.Cnd", formatBool M.cnd),
    ("M.valE", formatWord M.valE), ("M.valA", formatWord M.valA), ("M.dstE", formatRegId M.dstE),
    ("M.dstM", formatRegId M.dstM)]

/-- The fields of W (10_state.md R75) in the formats of 60_exceptions.md R532. -/
def WReg.texts (W : WReg) : List (String × String) :=
  [("W.stat", formatStatus W.stat), ("W.icode", formatICode W.icode), ("W.valE", formatWord W.valE),
    ("W.valM", formatWord W.valM), ("W.dstE", formatRegId W.dstE), ("W.dstM", formatRegId W.dstM)]

/-- The entry of cycle `n` in text: the number of the cycle, then every field of the entry (60_exceptions.md R531, R532;
the cycle number is an unsigned field by D34). -/
def LogEntry.texts (n : Nat) (e : LogEntry) : List (String × String) :=
  ("cycle", formatUnsigned n) ::
    (e.regs.texts ++ ccTexts e.cc ++ e.F.texts ++ e.D.texts ++ e.E.texts ++ e.M.texts ++ e.W.texts)

/-- The whole log in text, the entry of cycle 0 first (60_exceptions.md R530 `log`, R531). -/
def State.logTexts (s : State) : List (List (String × String)) := s.log.mapIdx LogEntry.texts

end Sys2Proof.Machine
end

