-- ==== Sys2Proof/Machine/Step.lean ====
section
/-! DEFINITION. One step of the machine, in the view the state names (log 1), and where a step fetches its next
instruction. -/

namespace Sys2Proof.Machine

/-- One step: a clock cycle, or an instruction. -/
def step (s : State) : Host.Outcome State Fault Refusal :=
  match s.view with
  | .clockCycle => s.stepOneCycle
  | .instruction => s.stepInstruction

/-- The state with a table word stored where the next step fetches, in the instruction view and not stopped, so that
the very next step runs that instruction (log 3). -/
def State.withFetchWord (s : State) (nbits w : Nat) : State :=
  { s.setSeqPC s.placeAddr with
    view := .instruction
    halted := false
    mem := { s.mem with image := placeBytes s.mem.image s.placeAddr.toNat (tableWordBytes nbits w) } }

end Sys2Proof.Machine
end

