-- ==== Sys2Proof/Safety.lean ====
section
/-! DEFINITION. The terms the claims use: what an instruction may change, the invariants of a good state, an empty
pipeline, and what a completed instruction leaves. -/

namespace Sys2Proof.Machine

/-! ## What an instruction may change -/

/-- The registers an instruction may write: its destination fields, and `%esp` for the stack operations
(40_pipeline_stages.md R223, R224). -/
def destinations : Instr → List RegId
  | .halt _ => []
  | .nop _ => []
  | .rrmovl _ rB => [rB]
  | .cmovle _ rB => [rB]
  | .cmovl _ rB => [rB]
  | .cmove _ rB => [rB]
  | .cmovne _ rB => [rB]
  | .cmovge _ rB => [rB]
  | .cmovg _ rB => [rB]
  | .irmovl _ _ rB _ => [rB]
  | .rmmovl _ _ _ _ => []
  | .mrmovl _ rA _ _ => [rA]
  | .addl _ rB => [rB]
  | .subl _ rB => [rB]
  | .andl _ rB => [rB]
  | .xorl _ rB => [rB]
  | .jmp _ => []
  | .jle _ => []
  | .jl _ => []
  | .je _ => []
  | .jne _ => []
  | .jge _ => []
  | .jg _ => []
  | .call _ _ => [espId]
  | .ret _ => [espId]
  | .pushl _ _ _ => [espId]
  | .popl _ rA _ => [espId, rA]

/-- The instruction is one of the four that write the flags (10_state.md R60). -/
def writesFlags : Instr → Bool
  | .addl _ _ => true
  | .subl _ _ => true
  | .andl _ _ => true
  | .xorl _ _ => true
  | _ => false

/-- The address an instruction stores to, computed in the state it starts in (40_pipeline_stages.md R250, R252). -/
def storeAddr (i : Instr) (s : State) : Option Word :=
  match i with
  | .rmmovl _ _ rB d => some (s.readReg rB + d)
  | .call _ _ => some (s.readReg espId - 4#32)
  | .pushl _ _ _ => some (s.readReg espId - 4#32)
  | _ => none

/-- The address an instruction reads data at, computed in the state it starts in (40_pipeline_stages.md R250, R251). -/
def loadAddr (i : Instr) (s : State) : Option Word :=
  match i with
  | .mrmovl _ _ rB d => some (s.readReg rB + d)
  | .popl _ _ _ => some (s.readReg espId)
  | .ret _ => some (s.readReg espId)
  | _ => none

/-! ## What a completed or stopped instruction leaves, in the instruction view -/

/-- Everything an instruction has no part in: D, E, M, W, their wires, F's status, the fetch wires but for `f_predPC`,
the counter, the log, the bound, the parameters and the view. -/
structure SameMachine (s t : State) : Prop where
  stages : t.D = s.D ∧ t.E = s.E ∧ t.M = s.M ∧ t.W = s.W
  wires : t.dOut = s.dOut ∧ t.eOut = s.eOut ∧ t.mOut = s.mOut
  fetch : t.F.stat = s.F.stat ∧ t.fOut = { s.fOut with predPC := t.fOut.predPC }
  driver : t.cycle = s.cycle ∧ t.log = s.log ∧ t.maxCycles = s.maxCycles
  model : t.cfg = s.cfg ∧ t.view = s.view

/-- The instruction has retired with status Ok and the next one is at `pc`. -/
structure Completed (s t : State) (pc : Word) : Prop where
  stat : t.stat = .ok
  halted : t.halted = s.halted
  next : t.seqPC = pc ∧ t.fOut.predPC = pc
  rest : SameMachine s t
  free : t.freeIndex = s.freeIndex

/-- The instruction has stopped the machine with status `st`, having changed neither flags nor memory
(60_exceptions.md R512). -/
structure Stopped (s t : State) (st : Status) : Prop where
  stat : t.stat = st
  halted : t.halted = true
  flags : t.cc = s.cc
  memory : t.mem = s.mem
  next : t.seqPC = s.seqPC
  rest : SameMachine s t

/-- A register move completes as 42_moves.md R320 says: with `taken` on the flags, `rB` takes the value of `r`. -/
def MovesRegister (i : RegId → RegId → Instr) (taken : CC → Bool) : Prop :=
  ∀ (r : Reg) (rB : RegId) (s : State), ∃ t,
    exec (i (some r) rB) s = .next t ∧
      t.regs = (if taken s.cc then s.regs.write rB (s.regs.get r) else s.regs) ∧
      t.cc = s.cc ∧ t.mem = s.mem ∧ Completed s t (s.seqPC + 2#32)

/-- A jump completes as 44_control.md R369 says: with `taken` on the flags the next instruction is at the target, else
after the jump. -/
def JumpsWhen (i : Word → Instr) (taken : CC → Bool) : Prop :=
  ∀ (dest : Word) (s : State), ∃ t,
    exec (i dest) s = .next t ∧ t.regs = s.regs ∧ t.cc = s.cc ∧ t.mem = s.mem ∧
      Completed s t (if taken s.cc then dest else s.seqPC + 5#32)

/-- An arithmetic instruction completes as 43_alu_ops.md R344, R345 say, with `pre` the unwrapped result of the values
of `rB` and `rA`. -/
def ComputesWithFlags (i : RegId → RegId → Instr) (pre : Word → Word → Int) : Prop :=
  ∀ (a b : Reg) (s : State), ∃ t,
    exec (i (some a) (some b)) s = .next t ∧
      t.regs = s.regs.set b (wrap32 (pre (s.regs.get b) (s.regs.get a))) ∧
      (t.cc.zf = true ↔ pre (s.regs.get b) (s.regs.get a) = 0) ∧
      (t.cc.sf = true ↔ pre (s.regs.get b) (s.regs.get a) < 0) ∧
      (t.cc.ovf = true ↔
        pre (s.regs.get b) (s.regs.get a) < -(2 ^ 31) ∨ (2 ^ 31 : Int) ≤ pre (s.regs.get b) (s.regs.get a)) ∧
      t.mem = s.mem ∧ Completed s t (s.seqPC + 2#32)

/-! ## Data memory -/

/-- A store of `v` at `a` succeeds: the word at `a` is `v`, every other key keeps its word, and neither the image nor
ReadSet changes (20_memory.md R101, R112). -/
structure StoredAt (m n : Memory) (a v : Word) : Prop where
  stored : wordAt a.toNat n.wmem = some v
  others : ∀ k, k ≠ a.toNat → wordAt k n.wmem = wordAt k m.wmem
  image : n.image = m.image
  readSet : n.readSet = m.readSet

/-- A store at `a` is possible (20_memory.md R112). -/
def Writable (m : Memory) (a : Word) : Prop := 0 ≤ a.toInt ∧ a.toNat ∉ m.readSet

/-- The value a read at `a` gives when the word is in WMem, or else in the image (20_memory.md R110). -/
def Readable (m : Memory) (a v : Word) : Prop :=
  wordAt a.toNat m.wmem = some v ∨
    (wordAt a.toNat m.wmem = none ∧ 0 ≤ a.toInt ∧ a.toInt + 4 ≤ m.image.length ∧ v = imageWord m.image a.toNat)

/-- A read at `a` fails (20_memory.md R110). -/
def Unreadable (m : Memory) (a : Word) : Prop :=
  wordAt a.toNat m.wmem = none ∧ (a.toInt < 0 ∨ (m.image.length : Int) < a.toInt + 4)

/-- What a read of `v` at `a` does to memory: nothing on a hit; on a miss `v` is stored at `a` and `a` joins ReadSet
(20_memory.md R110, R117). -/
structure ReadFrom (m n : Memory) (a v : Word) : Prop where
  image : n.image = m.image
  hit : wordAt a.toNat m.wmem ≠ none → n = m
  others : ∀ k, k ≠ a.toNat → wordAt k n.wmem = wordAt k m.wmem
  word : wordAt a.toNat n.wmem = some v
  marks : wordAt a.toNat m.wmem = none → ∀ k, k ∈ n.readSet ↔ k = a.toNat ∨ k ∈ m.readSet

/-- The words a read has pulled from the image are still in WMem as the image has them (20_memory.md R111). -/
def Memory.readProtected (m : Memory) : Prop :=
  ∀ a ∈ m.readSet, wordAt a m.wmem = some (imageWord m.image a)

/-! ## Invariants -/

/-- A good state: memory in canonical form with its read words protected, a global status that is no Bubble, a log of
one entry a cycle, and no stopping status in Stat or W while the run goes on. -/
structure State.Inv (s : State) : Prop where
  memory : s.mem.wf = true
  protectedWords : s.mem.readProtected
  status : s.stat ≠ .bubble
  log : s.log.length = s.cycle
  statStops : s.stat.faulty = true → s.halted = true
  retiredStops : s.W.stat.faulty = true → s.halted = true

/-- A status agrees with the opcode it stands beside before memory has acted: a bubble and a failed fetch are no-ops, a
halt and only a halt has Halt, an invalid opcode and only one has InvalidInstruction (40_pipeline_stages.md R216, R217). -/
def statusAgrees (st : Status) (icode : ICode) : Bool :=
  match st with
  | .bubble => decide (icode = .inop)
  | .ok => icode.valid && decide (icode ≠ .ihalt)
  | .addressError => decide (icode = .inop)
  | .invalidInstruction => !icode.valid
  | .halt => decide (icode = .ihalt)

/-- The same after memory has acted, where a data access may have failed (40_pipeline_stages.md R254). -/
def statusAgreesAfterMemory (st : Status) (icode : ICode) : Bool :=
  statusAgrees st icode || (decide (st = .addressError) && (memReads icode || memWrites icode))

/-- Every pipeline register and every stage's wires carry a status that agrees with their opcode. -/
structure State.StatusesAgree (s : State) : Prop where
  d : statusAgrees s.D.stat s.D.icode = true
  e : statusAgrees s.E.stat s.E.icode = true
  m : statusAgrees s.M.stat s.M.icode = true
  w : statusAgreesAfterMemory s.W.stat s.W.icode = true
  fOut : statusAgrees s.fOut.stat s.fOut.icode = true
  dOut : statusAgrees s.dOut.stat s.dOut.icode = true
  eOut : statusAgrees s.eOut.stat s.eOut.icode = true
  mOut : statusAgreesAfterMemory s.mOut.stat s.mOut.icode = true

/-! ## The pipeline -/

/-- How many instructions have retired: the cycles of the log that left a status other than Bubble in W
(60_exceptions.md R520, R531). -/
def retired (log : List LogEntry) : Nat := log.countP fun e => decide (e.W.stat ≠ .bubble)

/-- The pipeline is empty, the run goes on, and the next fetch is at `seqPC`: the state `load` leaves (10_state.md R78,
R79), with any registers, flags and memory. -/
structure State.Quiescent (s : State) : Prop where
  running : s.halted = false
  d : s.D = DReg.bubble
  e : s.E = EReg.bubble
  m : s.M = MReg.bubble
  w : s.W = WReg.bubble
  fOut : s.fOut.toD = DReg.bubble ∧ s.fOut.predPC = s.F.predPC
  dOut : s.dOut = EReg.bubble
  eOut : s.eOut = MReg.bubble
  mOut : s.mOut = WReg.bubble

/-- The instruction `i` stands at `seqPC` in the image. -/
def State.instrAt (s : State) (i : Instr) : Prop :=
  outsideImage s.mem.image s.seqPC = false ∧
    ∃ rest, decode (s.mem.image.drop s.seqPC.toNat) = .ok (i, rest)

/-- The next address is known only later than fetch predicts it: a ret, or a jump whose condition fails
(40_pipeline_stages.md R210). -/
def redirects (i : Instr) (cc : CC) : Bool :=
  match i with
  | .ret _ => true
  | .jle _ => !condHolds .le cc
  | .jl _ => !condHolds .l cc
  | .je _ => !condHolds .e cc
  | .jne _ => !condHolds .ne cc
  | .jge _ => !condHolds .ge cc
  | .jg _ => !condHolds .g cc
  | _ => false

end Sys2Proof.Machine
end

