-- ==== Sys2Proof/Certificates/Slice0/Obligations.lean ====
section
/-! DEFINITION. The statements for the provers, one `def Obligations.<Name> : Prop` each. A statement whose docstring
names a log entry or a decision of 92_eei_decisions.md rests on that choice, not on a rule of the source. Where a
statement speaks of `exec` or of the instruction view, that there is such a view is the model's choice (log 1), and so is
that it keeps its next address in `F.predPC`, leaves the pipeline, the counter and the log alone, and stays at an
instruction that stops (log 2): `Completed`, `Stopped` and `SameMachine` say so. -/

open Sys2Proof Sys2Proof.Machine

/-! ## Encoding -/

/-- Decoding the bytes of an instruction, whatever follows them, gives it back with every operand, and the bytes after it
(30_encoding.md; the code values are D1 and D4, log 9). -/
def Obligations.DecodeInvertsEncode : Prop :=
  ∀ (i : Instr) (rest : List Byte), decode (encode i ++ rest) = .ok (i, rest)

/-- Bytes that decode are the encoding of what they decode to, followed by the bytes left over, as many as the length
the icode gives (30_encoding.md R154, R176; log 9). -/
def Obligations.EncodeInvertsDecode : Prop :=
  ∀ (bytes : List Byte) (i : Instr) (rest : List Byte), decode bytes = .ok (i, rest) →
    bytes = encode i ++ rest ∧ bytes.length = i.length + rest.length

/-- Words of every family, written out from the tables of 30_encoding.md R164, R165 and 95_test_vectors.md V-E. The code
values and the order of the nibbles are the spec's choices D1 and D4 (log 9), nibble 8 for none is D3 (log 21), and
that halt and nop ignore their function code is D5 (log 27). -/
def Obligations.WrittenOutWordsDecode : Prop :=
  decode [0x30, 0x80, 0x05, 0x00, 0x00, 0x00] = .ok (.irmovl 0 none (some .eax) 5, []) ∧
    decode [0x60, 0x01] = .ok (.addl (some .eax) (some .ecx), []) ∧
    decode [0x40, 0x04, 0x00, 0x00, 0x00, 0x00] = .ok (.rmmovl 0 (some .eax) (some .esp) 0, []) ∧
    decode [0x50, 0x14, 0x00, 0x00, 0x00, 0x00] = .ok (.mrmovl 0 (some .ecx) (some .esp) 0, []) ∧
    decode [0x74, 0x00, 0x01, 0x00, 0x00] = .ok (.jne 0x100, []) ∧
    decode [0x80, 0x78, 0x56, 0x34, 0x12] = .ok (.call 0 0x12345678, []) ∧
    decode [0xa0, 0x48] = .ok (.pushl 0 (some .esp) none, []) ∧
    decode [0x26, 0x45] = .ok (.cmovg (some .esp) (some .ebp), []) ∧
    decode [0x90] = .ok (.ret 0, []) ∧
    decode [0x00] = .ok (.halt 0, []) ∧
    decode [0x1f] = .ok (.nop 15, [])

/-- 30_encoding.md R173, 40_pipeline_stages.md R214: a register byte with a nibble in 9..15, used or not, makes fetch set
AddressError. Nibble 8 for none is D3 and checking both nibbles D35 (log 21); which opcodes have a register byte rests
on the code values and the nibble order, D1 and D4 (log 9). -/
def Obligations.BadRegisterNibbleFailsTheFetch : Prop :=
  ∀ (image : List Byte) (pc : Word) (b0 b1 : Byte) (rest : List Byte),
    outsideImage image pc = false → image.drop pc.toNat = b0 :: b1 :: rest →
    (ICode.ofNibble (hi4 b0)).needRegids = true →
    (9 ≤ (hi4 b1).toNat ∨ 9 ≤ (lo4 b1).toNat) →
    (fetchAt image pc).stat = .addressError

/-- 30_encoding.md R170: an invalid opcode is fetched as InvalidInstruction, is one byte long whatever follows it, is
carried down the pipe by every stage, has no source, no destination, no data access and no flag write, and stops the
machine when it reaches write-back. That the opcode fetched is still the invalid one is D8 (log 16). -/
def Obligations.InvalidOpcodeTravelsAndStops : Prop :=
  (∀ (image : List Byte) (pc : Word) (b0 : Byte) (rest : List Byte),
    outsideImage image pc = false → image.drop pc.toNat = b0 :: rest → 0xC ≤ (hi4 b0).toNat →
    (fetchAt image pc).stat = .invalidInstruction ∧ (fetchAt image pc).icode.valid = false ∧
      (fetchAt image pc).valP = wrap32 (pc.toInt + 1) ∧
      decode (b0 :: rest) = .error (.invalidOpcode (ICode.ofNibble (hi4 b0)))) ∧
  (∀ D : DReg, D.icode.valid = false →
    srcAOf D = none ∧ srcBOf D = none ∧ dstEOf D = none ∧ dstMOf D = none ∧
      memReads D.icode = false ∧ memWrites D.icode = false) ∧
  (∀ s t : State, s.view = .clockCycle → s.halted = false → step s = .next t →
    (t.D.icode.valid = false → t.dOut.stat = t.D.stat ∧ t.dOut.icode = t.D.icode) ∧
    (t.E.icode.valid = false → t.cc = s.cc ∧ t.eOut.stat = t.E.stat ∧ t.eOut.icode = t.E.icode) ∧
    (t.M.icode.valid = false → t.mem = s.mem ∧ t.mOut.stat = t.M.stat ∧ t.mOut.icode = t.M.icode)) ∧
  (∀ s : State, s.view = .clockCycle → s.halted = false → s.mOut.stat = .invalidInstruction →
    ∃ t, step s = .next t ∧ t.W = s.mOut ∧ t.halted = true ∧ t.stat = .invalidInstruction)

/-- 30_encoding.md R172 (D6; log 10): a function code without meaning is fetched with status Ok, decodes to no
instruction, and is refused: at once in the instruction view (the model's choice, log 1), and in the cycle in which it is
in E with no older fault. -/
def Obligations.UndefinedFunctionCodesAreRefused : Prop :=
  (∀ (b0 b1 : Byte) (rest : List Byte), hi4 b0 = 6#4 → 4 ≤ (lo4 b0).toNat →
    (hi4 b1).toNat ≤ 8 → (lo4 b1).toNat ≤ 8 →
    decode (b0 :: b1 :: rest) = .error (.undefinedFunction .iopl (lo4 b0))) ∧
  (∀ (b0 b1 : Byte) (rest : List Byte), hi4 b0 = 2#4 → 7 ≤ (lo4 b0).toNat →
    (hi4 b1).toNat ≤ 8 → (lo4 b1).toNat ≤ 8 →
    decode (b0 :: b1 :: rest) = .error (.undefinedFunction .irrmovl (lo4 b0))) ∧
  (∀ (b0 b1 b2 b3 b4 : Byte) (rest : List Byte), hi4 b0 = 7#4 → 7 ≤ (lo4 b0).toNat →
    decode (b0 :: b1 :: b2 :: b3 :: b4 :: rest) = .error (.undefinedFunction .ijxx (lo4 b0))) ∧
  (∀ (s : State) (c : ICode) (f : Nibble), s.view = .instruction → s.halted = false →
    outsideImage s.mem.image s.seqPC = false →
    decode (s.mem.image.drop s.seqPC.toNat) = .error (.undefinedFunction c f) →
    step s = .refused (.undefinedFunctionCode c f) ∧ (fetchAt s.mem.image s.seqPC).stat = .ok) ∧
  (∀ s : State, s.view = .clockCycle → s.halted = false → s.hazardDecisions.E = .latch →
    s.dOut.stat = .ok → (s.backEnd s.hazardDecisions).olderFault = false →
    (s.dOut.icode = .iopl ∧ 4 ≤ s.dOut.ifun.toNat) ∨
      ((s.dOut.icode = .ijxx ∨ s.dOut.icode = .irrmovl) ∧ 7 ≤ s.dOut.ifun.toNat) →
    step s = .refused (.undefinedFunctionCode s.dOut.icode s.dOut.ifun))

/-! ## The instructions, one at a time -/

/-- `halt` completes by stopping the machine with Halt and changes nothing else; `nop` completes and only moves to the next
byte (41_misc.md, halt and nop). -/
def Obligations.HaltStopsAndNopAdvances : Prop :=
  ∀ (ifun : Nibble) (s : State),
    (∃ t, exec (.halt ifun) s = .next t ∧ Stopped s t .halt ∧ t.regs = s.regs) ∧
    (∃ t, exec (.nop ifun) s = .next t ∧ t.regs = s.regs ∧ t.cc = s.cc ∧ t.mem = s.mem ∧
      Completed s t (s.seqPC + 1#32))

/-- rrmovl and the six conditional moves complete, each moving under its own formula over ZF, SF and OF (42_moves.md,
register-move row; RNONE as destination writes nothing). -/
def Obligations.MovesFollowTheirConditions : Prop :=
  MovesRegister .rrmovl (fun _ => true) ∧
    MovesRegister .cmovle (fun cc => (cc.sf != cc.ovf) || cc.zf) ∧
    MovesRegister .cmovl (fun cc => cc.sf != cc.ovf) ∧
    MovesRegister .cmove (fun cc => cc.zf) ∧
    MovesRegister .cmovne (fun cc => !cc.zf) ∧
    MovesRegister .cmovge (fun cc => cc.sf == cc.ovf) ∧
    MovesRegister .cmovg (fun cc => (cc.sf == cc.ovf) && !cc.zf)

/-- `irmovl` completes: the destination takes the constant, or nothing is written for RNONE (42_moves.md, irmovl). -/
def Obligations.IrmovlLoadsTheConstant : Prop :=
  ∀ (ifun : Nibble) (rA rB : RegId) (v : Word) (s : State), ∃ t,
    exec (.irmovl ifun rA rB v) s = .next t ∧
      (∀ r, t.regs.get r = if rB = some r then v else s.regs.get r) ∧
      t.cc = s.cc ∧ t.mem = s.mem ∧ Completed s t (s.seqPC + 6#32)

/-- `addl` and `subl` complete: the wrapped sum, or second minus first, and flags of the unwrapped one (43_alu_ops.md;
the order of the subtraction is D23, log 9, log 18). -/
def Obligations.AddSubComputeWithFlags : Prop :=
  ComputesWithFlags .addl (fun b a => b.toInt + a.toInt) ∧
    ComputesWithFlags .subl (fun b a => b.toInt - a.toInt)

/-- `andl` and `xorl` complete: the bitwise result, ZF for a zero result, SF its bit 31, OF false (43_alu_ops.md). -/
def Obligations.AndXorComputeWithFlags : Prop :=
  ∀ (a b : Reg) (s : State),
    (∃ t, exec (.andl (some a) (some b)) s = .next t ∧
      t.regs = s.regs.set b (s.regs.get b &&& s.regs.get a) ∧
      t.cc = ⟨decide (s.regs.get b &&& s.regs.get a = 0#32), (s.regs.get b &&& s.regs.get a).msb, false⟩ ∧
      t.mem = s.mem ∧ Completed s t (s.seqPC + 2#32)) ∧
    (∃ t, exec (.xorl (some a) (some b)) s = .next t ∧
      t.regs = s.regs.set b (s.regs.get b ^^^ s.regs.get a) ∧
      t.cc = ⟨decide (s.regs.get b = s.regs.get a), (s.regs.get b).msb != (s.regs.get a).msb, false⟩ ∧
      t.mem = s.mem ∧ Completed s t (s.seqPC + 2#32))

/-- The seven jumps complete, each going to its absolute target under its own formula over ZF, SF and OF, else to the
byte after it (44_control.md, jump row; absolute targets are D40). -/
def Obligations.JumpsFollowTheirConditions : Prop :=
  JumpsWhen .jmp (fun _ => true) ∧
    JumpsWhen .jle (fun cc => (cc.sf != cc.ovf) || cc.zf) ∧
    JumpsWhen .jl (fun cc => cc.sf != cc.ovf) ∧
    JumpsWhen .je (fun cc => cc.zf) ∧
    JumpsWhen .jne (fun cc => !cc.zf) ∧
    JumpsWhen .jge (fun cc => cc.sf == cc.ovf) ∧
    JumpsWhen .jg (fun cc => (cc.sf == cc.ovf) && !cc.zf)

/-- `rmmovl` completes where the address is writable: the value of `rA` is stored at `wrap32(R[rB] + D)` and nothing else
changes (42_moves.md, rmmovl). -/
def Obligations.RmmovlStoresTheRegister : Prop :=
  ∀ (ifun : Nibble) (a b : Reg) (d : Word) (s : State),
    Writable s.mem (wrap32 ((s.regs.get b).toInt + d.toInt)) → ∃ t,
    exec (.rmmovl ifun (some a) (some b) d) s = .next t ∧
      StoredAt s.mem t.mem (wrap32 ((s.regs.get b).toInt + d.toInt)) (s.regs.get a) ∧
      t.regs = s.regs ∧ t.cc = s.cc ∧ Completed s t (s.seqPC + 6#32)

/-- `mrmovl` completes where the address is readable: `rA` takes the word at `wrap32(R[rB] + D)`, and the read has its
effect on memory even for RNONE (42_moves.md, mrmovl). -/
def Obligations.MrmovlLoadsTheWord : Prop :=
  ∀ (ifun : Nibble) (rA : RegId) (b : Reg) (d v : Word) (s : State),
    Readable s.mem (wrap32 ((s.regs.get b).toInt + d.toInt)) v → ∃ t,
    exec (.mrmovl ifun rA (some b) d) s = .next t ∧
      (∀ r, t.regs.get r = if rA = some r then v else s.regs.get r) ∧
      ReadFrom s.mem t.mem (wrap32 ((s.regs.get b).toInt + d.toInt)) v ∧
      t.cc = s.cc ∧ Completed s t (s.seqPC + 6#32)

/-- `call` completes where the new stack word is writable: the return address `pc + 5` is stored at
`wrap32(R[%esp] - 4)`, which becomes `%esp`, and the next instruction is at the target (44_control.md, call). -/
def Obligations.CallPushesTheReturnAddress : Prop :=
  ∀ (ifun : Nibble) (dest : Word) (s : State),
    Writable s.mem (wrap32 ((s.regs.get .esp).toInt - 4)) → ∃ t,
    exec (.call ifun dest) s = .next t ∧
      StoredAt s.mem t.mem (wrap32 ((s.regs.get .esp).toInt - 4)) (s.seqPC + 5#32) ∧
      (∀ r, t.regs.get r = if r = .esp then wrap32 ((s.regs.get .esp).toInt - 4) else s.regs.get r) ∧
      t.cc = s.cc ∧ Completed s t dest

/-- `ret` completes where the stack word is readable: the next instruction is at the word at `%esp`, and `%esp` rises by
4 (44_control.md, ret). -/
def Obligations.RetPopsTheReturnAddress : Prop :=
  ∀ (ifun : Nibble) (v : Word) (s : State), Readable s.mem (s.regs.get .esp) v → ∃ t,
    exec (.ret ifun) s = .next t ∧
      ReadFrom s.mem t.mem (s.regs.get .esp) v ∧
      (∀ r, t.regs.get r = if r = .esp then wrap32 ((s.regs.get .esp).toInt + 4) else s.regs.get r) ∧
      t.cc = s.cc ∧ Completed s t v

/-- `pushl` completes where the new stack word is writable: the old value of `rA`, `%esp` included, is stored at
`wrap32(R[%esp] - 4)`, which becomes `%esp` (45_stack.md, pushl). -/
def Obligations.PushlStoresTheOldValue : Prop :=
  ∀ (ifun : Nibble) (a : Reg) (rB : RegId) (s : State),
    Writable s.mem (wrap32 ((s.regs.get .esp).toInt - 4)) → ∃ t,
    exec (.pushl ifun (some a) rB) s = .next t ∧
      StoredAt s.mem t.mem (wrap32 ((s.regs.get .esp).toInt - 4)) (s.regs.get a) ∧
      (∀ r, t.regs.get r = if r = .esp then wrap32 ((s.regs.get .esp).toInt - 4) else s.regs.get r) ∧
      t.cc = s.cc ∧ Completed s t (s.seqPC + 2#32)

/-- `popl` completes where the stack word is readable: `rA` takes the word at `%esp`, and `%esp` rises by 4 unless it is
`rA` itself, which keeps the word (45_stack.md, popl; D21, log 18). -/
def Obligations.PoplLoadsTheStackWord : Prop :=
  ∀ (ifun : Nibble) (rA rB : RegId) (v : Word) (s : State), Readable s.mem (s.regs.get .esp) v → ∃ t,
    exec (.popl ifun rA rB) s = .next t ∧
      ReadFrom s.mem t.mem (s.regs.get .esp) v ∧
      (∀ r, t.regs.get r =
        if rA = some r then v
        else if r = .esp then wrap32 ((s.regs.get .esp).toInt + 4) else s.regs.get r) ∧
      t.cc = s.cc ∧ Completed s t (s.seqPC + 2#32)

/-- A store or a load that fails stops the machine with AddressError, memory and flags unchanged, and, with the reference
FAULT_WB, the registers too (60_exceptions.md R501, R512; D9, D12, log 8, log 17). That the next address, the pipeline,
the counter and the log stay is the instruction view's (logs 1, 2). -/
def Obligations.FailedAccessStopsTheMachine : Prop :=
  ∀ (i : Instr) (s : State) (a : Word), i.wellFormed = true →
    (storeAddr i s = some a ∧ ¬ Writable s.mem a) ∨ (loadAddr i s = some a ∧ Unreadable s.mem a) → ∃ t,
    exec i s = .next t ∧ Stopped s t .addressError ∧ (s.cfg.faultWB = .suppress → t.regs = s.regs)

/-- Every admitted instruction has a next state, and an instruction that uses the value of a RNONE source is refused by
name (30_encoding.md R174; D20, log 11). -/
def Obligations.AdmittedInstructionsAlwaysComplete : Prop :=
  ∀ (i : Instr) (s : State),
    (i.wellFormed = true → ∃ t, exec i s = .next t) ∧
      (i.wellFormed = false → exec i s = .refused (.noneSource i.fields.icode))

/-- The function code of a single-function opcode and the unused register fields have no effect (30_encoding.md R163,
R175; D5). -/
def Obligations.IgnoredFieldsHaveNoEffect : Prop :=
  ∀ (f g : Nibble) (x y r q : RegId) (w : Word),
    exec (.halt f) = exec (.halt g) ∧ exec (.nop f) = exec (.nop g) ∧
      exec (.irmovl f x r w) = exec (.irmovl g y r w) ∧
      exec (.rmmovl f q r w) = exec (.rmmovl g q r w) ∧ exec (.mrmovl f q r w) = exec (.mrmovl g q r w) ∧
      exec (.call f w) = exec (.call g w) ∧ exec (.ret f) = exec (.ret g) ∧
      exec (.pushl f r x) = exec (.pushl g r y) ∧ exec (.popl f r x) = exec (.popl g r y)

/-! ## Frames -/

/-- Every instruction leaves every register but its destinations as it was, completed or stopped. -/
def Obligations.OnlyDestinationsChange : Prop :=
  ∀ (i : Instr) (s t : State) (r : Reg), exec i s = .next t → some r ∉ destinations i →
    t.regs.get r = s.regs.get r

/-- Every instruction leaves the word a read gives at every address but the one it stores to as it was, the image as it
was, and ReadSet as it was unless it reads (20_memory.md; the unit of data memory is the word of a key, log 15). -/
def Obligations.OnlyTheStoredWordChanges : Prop :=
  ∀ (i : Instr) (s t : State), exec i s = .next t →
    (∀ a, storeAddr i s ≠ some a → t.mem.peek a = s.mem.peek a) ∧
      t.mem.image = s.mem.image ∧
      (loadAddr i s = none → t.mem.readSet = s.mem.readSet) ∧
      (loadAddr i s = none → storeAddr i s = none → t.mem = s.mem)

/-- No instruction but addl, subl, andl and xorl changes a flag (10_state.md R60; D24, log 18), and every instruction leaves
the pipeline registers, the counter, the log, the bound and the parameters as they were in the instruction view, and
the model's free index too unless it stops (log 2, log 8). -/
def Obligations.InstructionsLeaveTheMachineAlone : Prop :=
  ∀ (i : Instr) (s t : State), exec i s = .next t →
    (writesFlags i = false → t.cc = s.cc) ∧
      SameMachine s t ∧ (t.stat = .ok → t.freeIndex = s.freeIndex ∧ t.halted = s.halted)

/-! ## The step, in the instruction view -/

/-- Where the bytes at `seqPC` decode to an instruction, a step of the instruction view is that instruction's meaning
(log 1, log 2). -/
def Obligations.StepRunsTheDecodedInstruction : Prop :=
  ∀ (s : State) (i : Instr), s.view = .instruction → s.halted = false → s.instrAt i → step s = exec i s

/-- A fetch outside the image, past its end or with a bad register nibble stops the machine with AddressError, and one of
an invalid opcode with InvalidInstruction, the registers, flags and memory unchanged (60_exceptions.md R501, R503,
R512). The instruction view is the model's choice (log 1), and so is that it stays at the address that failed and leaves
the pipeline, the counter and the log alone (log 2). -/
def Obligations.FetchFaultStopsTheMachine : Prop :=
  ∀ s : State, s.view = .instruction → s.halted = false →
    (outsideImage s.mem.image s.seqPC = true → ∃ t,
      step s = .next t ∧ Stopped s t .addressError ∧ t.regs = s.regs) ∧
    (∀ e, outsideImage s.mem.image s.seqPC = false →
      decode (s.mem.image.drop s.seqPC.toNat) = .error (.fields e) → ∃ t,
      step s = .next t ∧ Stopped s t .addressError ∧ t.regs = s.regs) ∧
    (∀ c, outsideImage s.mem.image s.seqPC = false →
      decode (s.mem.image.drop s.seqPC.toNat) = .error (.invalidOpcode c) → ∃ t,
      step s = .next t ∧ Stopped s t .invalidInstruction ∧ t.regs = s.regs)

/-! ## The cycle driver -/

/-- After the run has ended a step changes nothing, in either view (60_exceptions.md R523; D28, log 19), and no step changes
the parameters, the bound or the view. -/
def Obligations.EndedRunChangesNothing : Prop :=
  (∀ s : State, s.halted = true → step s = .next s) ∧
    ∀ s t : State, step s = .next t → t.cfg = s.cfg ∧ t.maxCycles = s.maxCycles ∧ t.view = s.view

/-- 70_reset_and_hazards.md R640: a cycle adds one to the counter and one entry to the log, so after `n` cycles from a load
the counter is `n` and the log has `n` entries; and the counter is not visible to any instruction: a cycle that starts
with another count differs in the counter, and in whether the bound has ended the run (60_exceptions.md R522; D29, log
19), alone. -/
def Obligations.CyclesAreCountedAndLogged : Prop :=
  (∀ s t : State, s.view = .clockCycle → s.halted = false → step s = .next t →
    t.cycle = s.cycle + 1 ∧ t.log.length = s.log.length + 1) ∧
  (∀ (s t : State) (image : List Byte) (n : Nat), State.runCycles n (s.load image) = .next t →
    t.log.length = t.cycle ∧ t.cycle ≤ n ∧ (t.halted = false → t.cycle = n)) ∧
  (∀ (i : Instr) (s t : State) (n : Nat), exec i s = .next t →
    exec i { s with cycle := n } = .next { t with cycle := n }) ∧
  (∀ (s t : State) (n : Nat), s.clock = .next t → { s with cycle := n }.clock =
    .next { t with cycle := n + 1, halted := s.halted || t.W.stat.faulty || decide (s.maxCycles ≤ n + 1) })

/-- 60_exceptions.md R520: at the end of a cycle the global status takes the status in W unless that is a bubble; it is Ok
after a load and while only bubbles and Ok instructions have retired. -/
def Obligations.GlobalStatusFollowsWriteBack : Prop :=
  (∀ s t : State, s.view = .clockCycle → s.halted = false → step s = .next t →
    t.stat = if t.W.stat = .bubble then s.stat else t.W.stat) ∧
  (∀ (s : State) (image : List Byte), (s.load image).stat = .ok) ∧
  (∀ s t : State, s.view = .clockCycle → step s = .next t → s.stat = .ok →
    t.W.stat = .bubble ∨ t.W.stat = .ok → t.stat = .ok)

/-- 60_exceptions.md R521: the end of a cycle takes the status in W unless it is a bubble, appends one entry (the registers
and flags the cycle found, the pipeline registers it left), advances the counter, and ends the run exactly when a
stopping status is in W or the counter has reached the bound. What the entry holds is D34 (log 20), and the end at the
bound is D29 (log 19). -/
def Obligations.EndOfCycle : Prop :=
  ∀ s t : State, s.view = .clockCycle → s.halted = false → step s = .next t →
    t.stat = (if t.W.stat = .bubble then s.stat else t.W.stat) ∧
    t.log = s.log ++ [{ regs := s.regs, cc := s.cc, F := t.F, D := t.D, E := t.E, M := t.M, W := t.W }] ∧
    t.cycle = s.cycle + 1 ∧
    (t.halted = true ↔
      (t.W.stat = .halt ∨ t.W.stat = .addressError ∨ t.W.stat = .invalidInstruction) ∨ s.maxCycles ≤ t.cycle)

/-- 40_pipeline_stages.md R205: running to completion under a bound of `n` cycles is `n` single steps, with the same state
and log; stepping `m + n` cycles is stepping `m` and then `n`; and a run to completion leaves the run ended. That the
bound ends a run is D29 and that a step after the end does nothing D28 (log 19), and the run as a bounded number of steps
is the model's (log 24). -/
def Obligations.RunIsRepeatedSingleSteps : Prop :=
  (∀ s t : State, s.runToCompletion = .next t → t.halted = true) ∧
  (∀ (s : State) (image : List Byte) (n : Nat), 1 ≤ n →
    ((s.configure n).load image).runToCompletion = State.runCycles n ((s.configure n).load image)) ∧
  (∀ (s t : State) (m n : Nat), State.runCycles m s = .next t →
    State.runCycles (m + n) s = State.runCycles n t)

/-! ## Hazards, latches and stages -/

/-- The modes of the rows of the combination table, that E, M and W never stall and W always latches, and what each mode
makes of each register (70_reset_and_hazards.md R610, R616, R620 to R622; 40_pipeline_stages.md R202; D25 to D27, log
19; the status in F is D19 and the bubbles are D16, log 12). -/
def Obligations.HazardsChooseTheModes : Prop :=
  ∀ s : State,
    (s.loadUse = false → s.retHazard = false → s.mispredict = false → s.drain = false →
      s.hazardDecisions = ⟨.latch, .latch, .latch, .latch, .latch⟩) ∧
    (s.loadUse = true → s.drain = false → s.hazardDecisions = ⟨.stall, .stall, .bubble, .latch, .latch⟩) ∧
    (s.retHazard = true → s.loadUse = false → s.mispredict = false → s.drain = false →
      s.hazardDecisions = ⟨.stall, .bubble, .latch, .latch, .latch⟩) ∧
    (s.mispredict = true → s.retHazard = false → s.drain = false →
      s.hazardDecisions = ⟨.latch, .bubble, .bubble, .latch, .latch⟩) ∧
    (s.retHazard = true → s.mispredict = true → s.drain = false →
      s.hazardDecisions = ⟨.stall, .bubble, .bubble, .latch, .latch⟩) ∧
    (s.drain = true → s.hazardDecisions.E = .bubble ∧ s.hazardDecisions.M = .bubble ∧
      s.hazardDecisions.F ≠ .latch ∧ s.hazardDecisions.D ≠ .latch) ∧
    s.hazardDecisions.E ≠ .stall ∧ s.hazardDecisions.M ≠ .stall ∧ s.hazardDecisions.W = .latch ∧
    (∀ t, s.view = .clockCycle → s.halted = false → step s = .next t →
      (s.hazardDecisions.F = .latch → t.F = ⟨.ok, s.fOut.predPC⟩) ∧
      (s.hazardDecisions.F = .bubble → t.F = ⟨.bubble, s.fOut.predPC⟩) ∧
      (s.hazardDecisions.F = .stall → t.F = s.F) ∧
      (s.hazardDecisions.D = .latch → t.D =
        ⟨s.fOut.stat, s.fOut.icode, s.fOut.ifun, s.fOut.rA, s.fOut.rB, s.fOut.valC, s.fOut.valP⟩) ∧
      (s.hazardDecisions.D = .bubble → t.D = DReg.bubble) ∧ (s.hazardDecisions.D = .stall → t.D = s.D) ∧
      (s.hazardDecisions.E = .latch → t.E = s.dOut) ∧ (s.hazardDecisions.E = .bubble → t.E = EReg.bubble) ∧
      (s.hazardDecisions.M = .latch → t.M = s.eOut) ∧ (s.hazardDecisions.M = .bubble → t.M = MReg.bubble) ∧
      t.W = s.mOut)

/-- 70_reset_and_hazards.md R615: a register asked to stall and to bubble stalls: F under the drain, D under the ret
hazard, a misprediction or the drain; and a stalled register keeps its contents. -/
def Obligations.StallBeatsBubble : Prop :=
  ∀ s : State,
    ((s.loadUse = true ∨ s.retHazard = true) → s.drain = true → s.hazardDecisions.F = .stall) ∧
    (s.loadUse = true → (s.retHazard = true ∨ s.mispredict = true ∨ s.drain = true) →
      s.hazardDecisions.D = .stall) ∧
    (∀ t, s.view = .clockCycle → s.halted = false → step s = .next t →
      (s.hazardDecisions.F = .stall → t.F = s.F) ∧ (s.hazardDecisions.D = .stall → t.D = s.D))

/-- What the hazards do to the instructions in flight (70_reset_and_hazards.md R611 to R613; D20, D25, D26, log 19): a load
whose destination is a source in decode holds F and D and bubbles E; a ret in D, E or M holds F and bubbles D; a
mispredicted jump bubbles D and E and fetches at its fall-through address. -/
def Obligations.HazardsActOnThePipeline : Prop :=
  ∀ (s t : State), s.view = .clockCycle → s.halted = false → step s = .next t →
    (∀ r, (s.E.icode = .imrmovl ∨ s.E.icode = .ipopl) → s.E.dstM = some r →
      (s.dOut.srcA = some r ∨ s.dOut.srcB = some r) →
      t.F = s.F ∧ t.D = s.D ∧ t.E = EReg.bubble) ∧
    ((s.D.icode = .iret ∨ s.E.icode = .iret ∨ s.M.icode = .iret) → s.loadUse = false →
      t.F = s.F ∧ t.D = DReg.bubble) ∧
    (s.E.icode = .ijxx → s.eOut.cnd = false → s.eOut.icode = .ijxx → s.drain = false →
      t.D = DReg.bubble ∧ t.E = EReg.bubble ∧ t.M = s.eOut ∧ t.fOut.pc = s.eOut.valA)

/-- Once a stopping status has left memory, the next cycle retires it and ends the run, and nothing younger commits:
flags and memory are unchanged and, with the reference FAULT_WB, the registers too (70_reset_and_hazards.md R614;
D12, D27, log 8, log 19). -/
def Obligations.DrainCommitsNothingYounger : Prop :=
  ∀ s : State, s.view = .clockCycle → s.halted = false → s.mOut.stat.faulty = true → ∃ t,
    step s = .next t ∧ t.halted = true ∧ t.stat = s.mOut.stat ∧ t.cc = s.cc ∧ t.mem = s.mem ∧
      t.W = s.mOut ∧ t.M = MReg.bubble ∧ t.E = EReg.bubble ∧
      (s.cfg.faultWB = .suppress → t.regs = s.regs)

/-- The operand the forwarding multiplexer gives is the value the register holds once the instructions in W, M and E have
written their results, oldest first (40_pipeline_stages.md R230 to R232; the pairing of values and destinations is
general knowledge, log 9). -/
def Obligations.ForwardingGivesTheNewestValue : Prop :=
  ∀ (s : State) (r : Reg),
    s.forward (some r) =
      ((((((s.regs.write s.W.dstE s.W.valE).write s.W.dstM s.W.valM).write s.M.dstE s.M.valE).write
        s.M.dstM s.mOut.valM).write s.eOut.dstE s.eOut.valE).get r) ∧
    s.forward none = 0#32

/-- The flags after a cycle: those of the OPl in E unless a stopping status is in memory's output or in W, and otherwise
those before it (40_pipeline_stages.md R243, R245; that OPl alone sets flags is D24, log 18). -/
def Obligations.FlagsAreWrittenOnlyByUnfaultedArithmetic : Prop :=
  ∀ s t : State, s.view = .clockCycle → s.halted = false → step s = .next t →
    ((t.E.icode ≠ .iopl ∨ t.mOut.stat.faulty = true ∨ t.W.stat.faulty = true) → t.cc = s.cc) ∧
    (∀ f, t.E.icode = .iopl → t.mOut.stat.faulty = false → t.W.stat.faulty = false →
      AluFun.ofNibble? t.E.ifun = some f →
      t.cc = flagsOf (aluPre f t.E.valB t.E.valA) ∧ t.eOut.valE = wrap32 (aluPre f t.E.valB t.E.valA))

/-- 40_pipeline_stages.md R244: the condition formulas over ZF, SF and OF by function code; 7 to 15 name none. The function
codes are those of 30_encoding.md R162, general knowledge and D1 (log 9). -/
def Obligations.ConditionFormulas : Prop :=
  (∀ cc : CC,
    condHolds .always cc = true ∧
      (condHolds .le cc = true ↔ (cc.sf ≠ cc.ovf ∨ cc.zf = true)) ∧
      (condHolds .l cc = true ↔ cc.sf ≠ cc.ovf) ∧
      (condHolds .e cc = true ↔ cc.zf = true) ∧
      (condHolds .ne cc = true ↔ cc.zf = false) ∧
      (condHolds .ge cc = true ↔ cc.sf = cc.ovf) ∧
      (condHolds .g cc = true ↔ (cc.sf = cc.ovf ∧ cc.zf = false))) ∧
  Cond.ofNibble? 0#4 = some .always ∧ Cond.ofNibble? 1#4 = some .le ∧ Cond.ofNibble? 2#4 = some .l ∧
    Cond.ofNibble? 3#4 = some .e ∧ Cond.ofNibble? 4#4 = some .ne ∧ Cond.ofNibble? 5#4 = some .ge ∧
    Cond.ofNibble? 6#4 = some .g ∧
  (∀ n : Nibble, 7 ≤ n.toNat → Cond.ofNibble? n = none)

/-- 40_pipeline_stages.md R220, R221, R224, R225: after a cycle the decode wires hold D's status and codes, the first source
and the memory destination by their tables, and the fall-through address as first operand of a call or jump. -/
def Obligations.DecodeStage : Prop :=
  ∀ s t : State, s.view = .clockCycle → s.halted = false → step s = .next t →
    (t.dOut.stat = t.D.stat ∧ t.dOut.icode = t.D.icode ∧ t.dOut.ifun = t.D.ifun ∧ t.dOut.valC = t.D.valC) ∧
    ((t.D.icode = .irrmovl ∨ t.D.icode = .irmmovl ∨ t.D.icode = .iopl ∨ t.D.icode = .ipushl) →
      t.dOut.srcA = t.D.rA) ∧
    ((t.D.icode = .ipopl ∨ t.D.icode = .iret) → t.dOut.srcA = some .esp) ∧
    ((t.D.icode ≠ .irrmovl ∧ t.D.icode ≠ .irmmovl ∧ t.D.icode ≠ .iopl ∧ t.D.icode ≠ .ipushl ∧ t.D.icode ≠ .ipopl ∧
      t.D.icode ≠ .iret) → t.dOut.srcA = none) ∧
    t.dOut.dstM = (if t.D.icode = .imrmovl ∨ t.D.icode = .ipopl then t.D.rA else none) ∧
    t.dOut.valA = (if t.D.icode = .icall ∨ t.D.icode = .ijxx then t.D.valP else t.forward t.dOut.srcA)

/-- 40_pipeline_stages.md R240, R246: after a cycle the execute wires pass E's status, opcode, first operand and memory
destination, and a failed conditional move has no destination. Function code 0 for the unconditional move is D1
(log 9). -/
def Obligations.ExecuteStagePasses : Prop :=
  ∀ s t : State, s.view = .clockCycle → s.halted = false → step s = .next t →
    t.eOut.stat = t.E.stat ∧ t.eOut.icode = t.E.icode ∧ t.eOut.valA = t.E.valA ∧ t.eOut.dstM = t.E.dstM ∧
    t.eOut.dstE = (if t.E.icode = .irrmovl ∧ t.eOut.cnd = false then none else t.E.dstE) ∧
    (t.E.icode = .irrmovl → t.E.ifun = 0#4 → t.eOut.cnd = true)

/-- 40_pipeline_stages.md R254: the status leaving memory is AddressError when the access of the instruction in M failed,
else the status in M. Which opcodes read and write is general knowledge (R251, R252; log 9), and that only an instruction
with status Ok accesses memory is D13 (log 17). -/
def Obligations.MemoryStatus : Prop :=
  ∀ s t : State, s.view = .clockCycle → s.halted = false → step s = .next t →
    (t.M.stat = .ok → memReads t.M.icode = true →
      t.mOut.stat = if (s.mem.read (memAddr t.M)).ok then t.M.stat else .addressError) ∧
    (t.M.stat = .ok → memWrites t.M.icode = true →
      t.mOut.stat = if (s.mem.write (memAddr t.M) t.M.valA).ok then t.M.stat else .addressError) ∧
    ((t.M.stat ≠ .ok ∨ (memReads t.M.icode = false ∧ memWrites t.M.icode = false)) → t.mOut.stat = t.M.stat)

/-- 40_pipeline_stages.md R219: every jump and call is predicted to go to its target, every other fetch, a ret and a failed
one included, to the byte after it. -/
def Obligations.PredictTaken : Prop :=
  ∀ (image : List Byte) (pc : Word),
    (fetchAt image pc).predPC =
      if (fetchAt image pc).icode = .ijxx ∨ (fetchAt image pc).icode = .icall then (fetchAt image pc).valC
      else (fetchAt image pc).valP

/-- What fetch gives (40_pipeline_stages.md R211 to R219; D7, D8, D38, log 16): a failed fetch is a no-op with AddressError
at `wrap32(pc + 1)`; otherwise the status is that of the opcode, the next byte is after the instruction, and a jump
or call is predicted taken. -/
def Obligations.FetchOutputs : Prop :=
  ∀ (image : List Byte) (pc : Word),
    (outsideImage image pc = true →
      (fetchAt image pc).toD = ⟨.addressError, .inop, 0, none, none, 0, wrap32 (pc.toInt + 1)⟩ ∧
        (fetchAt image pc).predPC = wrap32 (pc.toInt + 1)) ∧
    (∀ e, outsideImage image pc = false → readFields (image.drop pc.toNat) = .error e →
      (fetchAt image pc).toD = ⟨.addressError, .inop, 0, none, none, 0, wrap32 (pc.toInt + 1)⟩ ∧
        (fetchAt image pc).predPC = wrap32 (pc.toInt + 1)) ∧
    (∀ fl rest, outsideImage image pc = false → readFields (image.drop pc.toNat) = .ok (fl, rest) →
      (fetchAt image pc).toD =
        ⟨if fl.icode = .ihalt then .halt else if fl.icode.valid then .ok else .invalidInstruction,
          fl.icode, fl.ifun, fl.rA, fl.rB, fl.valC, wrap32 (pc.toInt + fl.icode.length)⟩ ∧
      (fetchAt image pc).predPC =
        if fl.icode = .ijxx ∨ fl.icode = .icall then fl.valC else wrap32 (pc.toInt + fl.icode.length))

/-- The write-back of an instruction (40_pipeline_stages.md R260, R261; D12, D21, log 8, log 18): with status Ok the ALU
result and then the memory value, a bubble nothing, a stopping status nothing under the reference FAULT_WB. -/
def Obligations.WriteBackCommitsInOrder : Prop :=
  ∀ (s : State) (dE dM : RegId) (vE vM : Word),
    (∀ r, (s.commit .ok dE vE dM vM).regs.get r =
      if dM = some r then vM else if dE = some r then vE else s.regs.get r) ∧
    (s.commit .bubble dE vE dM vM).regs = s.regs ∧
    (∀ st : Status, st.faulty = true →
      (s.cfg.faultWB = .suppress → s.commit st dE vE dM vM = s) ∧
      (∀ r, dE ≠ some r → dM ≠ some r → (s.commit st dE vE dM vM).regs.get r = s.regs.get r))

/-- 10_state.md R53: only write-back and `load` change a register: a cycle leaves the registers as the write-back of the
instruction latched into W does, and `configure` leaves them alone. -/
def Obligations.OnlyWriteBackWritesRegisters : Prop :=
  (∀ s t : State, s.view = .clockCycle → s.halted = false → step s = .next t →
    t.regs = (s.commit t.W.stat t.W.dstE t.W.valE t.W.dstM t.W.valM).regs) ∧
  (∀ (s : State) (n : Nat), (s.configure n).regs = s.regs)

/-! ## Memory -/

/-- `MemRead` (20_memory.md R110; D9 to D11, log 17): a hit changes nothing, a miss inside the image pulls the word and
marks the address, any other miss fails with 0 and changes nothing. -/
def Obligations.DataReadRule : Prop :=
  ∀ (m : Memory) (a : Word),
    (∀ v, Readable m a v → (m.read a).ok = true ∧ (m.read a).value = v ∧ ReadFrom m (m.read a).mem a v) ∧
      (Unreadable m a → m.read a = ⟨false, 0#32, m⟩)

/-- 20_memory.md R112: a write fails at a negative address and at one in ReadSet, changing nothing; it succeeds at every
other address, without upper bound, does not mark ReadSet, and a second write to the same key replaces the first. -/
def Obligations.DataWriteRule : Prop :=
  ∀ (m : Memory) (a v w : Word),
    ((a.toInt < 0 ∨ a.toNat ∈ m.readSet) → m.write a v = ⟨false, m⟩) ∧
    ((0 ≤ a.toInt ∧ a.toNat ∉ m.readSet) → (m.write a v).ok = true ∧ StoredAt m (m.write a v).mem a v ∧
      ((m.write a v).mem.write a w).ok = true ∧ StoredAt m ((m.write a v).mem.write a w).mem a w)

/-- 20_memory.md R101: a word stored at a key is there as one whole word, is not seen at any other key, near as it may be,
and changes no other key; after a load no key holds a word. -/
def Obligations.KeysShareNoBytes : Prop :=
  (∀ (m : Memory) (a b v : Word), a ≠ b →
    (m.write a v).mem.peek b = m.peek b ∧ wordAt b.toNat (m.write a v).mem.wmem = wordAt b.toNat m.wmem) ∧
  (∀ (m : Memory) (a v : Word), (m.write a v).ok = true → (m.write a v).mem.peek a = some v) ∧
  (∀ (s : State) (image : List Byte), (s.load image).mem.wmem = [])

/-- 20_memory.md R102: a read miss pulls the value from the image and marks the address; ReadSet only grows in a run, and is
empty after a load. -/
def Obligations.ReadSetOnlyGrows : Prop :=
  (∀ (m : Memory) (a : Word), wordAt a.toNat m.wmem = none → (m.read a).ok = true →
    (m.read a).value = imageWord m.image a.toNat ∧ a.toNat ∈ (m.read a).mem.readSet) ∧
  (∀ s t : State, step s = .next t → ∀ a ∈ s.mem.readSet, a ∈ t.mem.readSet) ∧
  (∀ (s : State) (image : List Byte), (s.load image).mem.readSet = [])

/-- 20_memory.md R123, 70_reset_and_hazards.md R631: fetch reads the image only, which no step and no store changes, so a
store is never seen by a fetch; and a fetch does not mark ReadSet. -/
def Obligations.FetchNeverSeesStores : Prop :=
  (∀ s t : State, step s = .next t → t.mem.image = s.mem.image) ∧
  (∀ (s : State) (a v : Word), (s.setMem (s.mem.write a v).mem).fetchCompute.fOut = s.fetchCompute.fOut ∧
    (s.setMem (s.mem.write a v).mem).fetchInstr = s.fetchInstr) ∧
  (∀ s : State, s.fetchCompute.mem = s.mem) ∧
  (∀ s t : State, s.mem.image = t.mem.image → s.fetchPC = t.fetchPC → s.fetchCompute.fOut = t.fetchCompute.fOut) ∧
  (∀ s t : State, s.mem.image = t.mem.image → s.seqPC = t.seqPC → s.fetchInstr = t.fetchInstr)

/-! ## Reset, load, configure -/

/-- The state after reset: that of a load of the empty image, with every field but the model's own free index at the value
INVENTORY.md gives. The register, flag, entry and bound values are D14, D15, D18 and logs 4 to 7, FAULT_WB is log 8,
the bubbles and the wires D16 and D17, log 12, and the view is the model's own, log 1. -/
def Obligations.ResetState : Prop :=
  State.reset.load [] = State.reset ∧
    (∀ r, State.reset.regs.get r = 0#32) ∧ State.reset.cc = ⟨false, false, false⟩ ∧
    State.reset.stat = .ok ∧ State.reset.cycle = 0 ∧ State.reset.halted = false ∧ State.reset.log = [] ∧
    State.reset.F = ⟨.bubble, 0#32⟩ ∧ State.reset.mem = ⟨[], [], []⟩ ∧ State.reset.Quiescent ∧
    State.reset.fOut = FetchOut.bubble 0#32 ∧ State.reset.maxCycles = 1000 ∧
    State.reset.cfg = ⟨0#32, 0#32, ⟨false, false, false⟩, .suppress⟩ ∧ State.reset.view = .clockCycle

/-- `load` resets everything but the bound and the parameters, whatever the state; `configure` sets the bound and nothing
else (70_reset_and_hazards.md R600; 10_state.md R78, R79; 60_exceptions.md R530). The model's own view and free index
are not the machine's (log 1, log 8). -/
def Obligations.LoadResetsAndConfigureBounds : Prop :=
  (∀ (s : State) (image : List Byte),
    (s.load image).Quiescent ∧ (s.load image).mem = ⟨image, [], []⟩ ∧
      (s.load image).F = ⟨.bubble, s.cfg.entryPC⟩ ∧ (s.load image).fOut = FetchOut.bubble s.cfg.entryPC ∧
      (∀ r, (s.load image).regs.get r = s.cfg.regReset) ∧ (s.load image).cc = s.cfg.ccReset ∧
      (s.load image).stat = .ok ∧ (s.load image).cycle = 0 ∧ (s.load image).halted = false ∧
      (s.load image).log = [] ∧ (s.load image).maxCycles = s.maxCycles ∧ (s.load image).cfg = s.cfg) ∧
  (∀ (s : State) (n : Nat), (s.configure n).maxCycles = n ∧ { s.configure n with maxCycles := s.maxCycles } = s)

/-! ## Invariants -/

/-- Every step, in either view, keeps a good state good: memory canonical with its read words protected (20_memory.md R111),
Stat never a bubble (10_state.md R64), one log entry a cycle (70_reset_and_hazards.md R640), and no stopping status in
Stat or W while the run goes on (R614). -/
def Obligations.StepKeepsAGoodState : Prop :=
  ∀ s t : State, s.Inv → step s = .next t → t.Inv

/-- The state after reset is good, and so is the state after the load of any image shorter than 2^31 bytes. -/
def Obligations.ResetAndLoadAreGood : Prop :=
  State.reset.Inv ∧ State.reset.StatusesAgree ∧
    ∀ (s : State) (image : List Byte), image.length < 2 ^ 31 →
      (s.load image).Inv ∧ (s.load image).StatusesAgree

/-- Every step, in either view, keeps the statuses in the pipeline in agreement with the opcodes beside them
(40_pipeline_stages.md R216, R217, R254; 43_alu_ops.md R346). -/
def Obligations.StepKeepsStatusesAgreeing : Prop :=
  ∀ s t : State, s.StatusesAgree → step s = .next t → t.StatusesAgree

/-! ## The pipeline does what the instructions say -/

/-- An instruction that enters an empty pipeline writes its flags in the third cycle, its memory in the fourth and its
registers in the fifth, in which it retires with its status, and none of them earlier, exactly as its meaning says,
whatever is fetched after it (70_reset_and_hazards.md R630, R633; log 1). -/
def Obligations.FiveCyclesDoWhatTheInstructionSays : Prop :=
  ∀ (s u : State) (i : Instr), s.Quiescent → s.instrAt i → exec i s = .next u → s.cycle + 5 < s.maxCycles →
    (∃ t, State.runCycles 2 s = .next t ∧ t.cc = s.cc ∧ t.regs = s.regs ∧ t.mem = s.mem) ∧
    (∃ t, State.runCycles 3 s = .next t ∧ t.cc = u.cc ∧ t.regs = s.regs ∧ t.mem = s.mem) ∧
    (∀ t, State.runCycles 4 s = .next t → t.mem = u.mem ∧ t.regs = s.regs) ∧
    (∀ t, State.runCycles 5 s = .next t →
      t.regs = u.regs ∧ t.stat = u.stat ∧ t.halted = u.halted ∧ t.freeIndex = u.freeIndex ∧ t.cycle = s.cycle + 5)

/-- After an instruction that enters an empty pipeline and completes, fetch goes on at the instruction's next address: in
the next cycle where prediction is right, two cycles later for a jump not taken, and four cycles after its own fetch
for a ret (44_control.md R367 to R369; 70_reset_and_hazards.md R633). -/
def Obligations.FetchGoesOnAtTheNextInstruction : Prop :=
  ∀ (s u : State) (i : Instr), s.Quiescent → s.instrAt i → exec i s = .next u → u.stat = .ok →
    s.cycle + 5 < s.maxCycles →
    (redirects i s.cc = false → ∃ t, State.runCycles 2 s = .next t ∧ t.fOut.pc = u.seqPC) ∧
    (redirects i s.cc = true → (∀ f, i ≠ .ret f) →
      ∃ t, State.runCycles 4 s = .next t ∧ t.fOut.pc = u.seqPC) ∧
    (∀ f, i = .ret f → ∃ t, State.runCycles 5 s = .next t ∧ t.fOut.pc = u.seqPC)

/-- The pipeline commits what the instructions do one at a time, in program order (70_reset_and_hazards.md R630): after any
number of cycles from a load, its registers and status are those of as many instructions run from the same load as
its log says have retired, and when it has stopped by a status its flags and memory are too (log 1). -/
def Obligations.PipelineAgreesWithOneAtATime : Prop :=
  ∀ (s t : State) (image : List Byte) (n : Nat),
    State.runCycles n (s.load image) = .next t → ∃ u,
    State.runInstructions (retired t.log) (s.load image) = .next u ∧ u.regs = t.regs ∧ u.stat = t.stat ∧
      (t.stat.faulty = true → u.halted = true ∧ u.cc = t.cc ∧ u.mem = t.mem)

/-! ## The remaining tables of the stages -/

/-- After a cycle, by the opcode in D and in E: the second source, the ALU destination, the second operand, and the ALU
result from its two input tables (40_pipeline_stages.md R222, R223, R226, R241, R242). The rows are general knowledge
(log 9) and the order of the subtraction is D23 (log 18). -/
def Obligations.SecondSourceAndAluInputs : Prop :=
  ∀ s t : State, s.view = .clockCycle → s.halted = false → step s = .next t →
    (t.D.icode = .iopl ∨ t.D.icode = .irmmovl ∨ t.D.icode = .imrmovl → t.dOut.srcB = t.D.rB) ∧
    (t.D.icode = .irrmovl ∨ t.D.icode = .iirmovl ∨ t.D.icode = .iopl → t.dOut.dstE = t.D.rB) ∧
    (t.D.icode = .ipushl ∨ t.D.icode = .ipopl ∨ t.D.icode = .icall ∨ t.D.icode = .iret →
      t.dOut.srcB = some .esp ∧ t.dOut.dstE = some .esp) ∧
    (t.D.icode = .irrmovl ∨ t.D.icode = .iirmovl → t.dOut.srcB = none) ∧
    (t.D.icode = .irmmovl ∨ t.D.icode = .imrmovl → t.dOut.dstE = none) ∧
    (t.D.icode = .ihalt ∨ t.D.icode = .inop ∨ t.D.icode = .ijxx ∨ t.D.icode.valid = false →
      t.dOut.srcB = none ∧ t.dOut.dstE = none) ∧
    t.dOut.valB = t.forward t.dOut.srcB ∧
    (t.E.icode = .irrmovl → t.eOut.valE = t.E.valA) ∧
    (t.E.icode = .iirmovl → t.eOut.valE = t.E.valC) ∧
    (t.E.icode = .irmmovl ∨ t.E.icode = .imrmovl → t.eOut.valE = wrap32 (t.E.valB.toInt + t.E.valC.toInt)) ∧
    (t.E.icode = .icall ∨ t.E.icode = .ipushl → t.eOut.valE = wrap32 (t.E.valB.toInt - 4)) ∧
    (t.E.icode = .iret ∨ t.E.icode = .ipopl → t.eOut.valE = wrap32 (t.E.valB.toInt + 4)) ∧
    (∀ f, t.E.icode = .iopl → AluFun.ofNibble? t.E.ifun = some f →
      t.eOut.valE = wrap32 (aluPre f t.E.valB t.E.valA)) ∧
    (t.E.icode = .ihalt ∨ t.E.icode = .inop ∨ t.E.icode = .ijxx ∨ t.E.icode.valid = false → t.eOut.valE = 0#32)

/-- After a cycle the memory wires pass the opcode, the ALU result and the destinations of M; an instruction in M with
status Ok that reads leaves memory as that read does and its value on the wire; one that stores leaves memory as that
write does; and anything else leaves memory alone. The wire is 0 where nothing is read or a read fails
(40_pipeline_stages.md R250 to R253; which opcodes read and write is general knowledge, log 9; D11 and D13, log 17). -/
def Obligations.MemoryStageAccesses : Prop :=
  ∀ s t : State, s.view = .clockCycle → s.halted = false → step s = .next t →
    (t.mOut.icode = t.M.icode ∧ t.mOut.valE = t.M.valE ∧ t.mOut.dstE = t.M.dstE ∧ t.mOut.dstM = t.M.dstM) ∧
    (t.M.stat = .ok → t.M.icode = .imrmovl →
      t.mem = (s.mem.read t.M.valE).mem ∧ t.mOut.valM = (s.mem.read t.M.valE).value) ∧
    (t.M.stat = .ok → t.M.icode = .ipopl ∨ t.M.icode = .iret →
      t.mem = (s.mem.read t.M.valA).mem ∧ t.mOut.valM = (s.mem.read t.M.valA).value) ∧
    (t.M.stat = .ok → t.M.icode = .irmmovl ∨ t.M.icode = .ipushl ∨ t.M.icode = .icall →
      t.mem = (s.mem.write t.M.valE t.M.valA).mem ∧ t.mOut.valM = 0#32) ∧
    (t.M.stat ≠ .ok ∨ (memReads t.M.icode = false ∧ memWrites t.M.icode = false) →
      t.mem = s.mem ∧ t.mOut.valM = 0#32) ∧
    (∀ a, (s.mem.read a).ok = false → (s.mem.read a).value = 0#32)
end

