-- ==== Sys2Proof/Laws/Codes.lean ====
section
/-! SUPPORT. The codes and byte layouts of the decoder and the encoder, each with its inverse. -/

namespace Sys2Proof

@[simp] theorem hi4_append (a b : Nibble) : hi4 (a ++ b : Byte) = a := by
  revert a b; decide

@[simp] theorem lo4_append (a b : Nibble) : lo4 (a ++ b : Byte) = b := by
  revert a b; decide

@[simp] theorem append_nibbles (b : Byte) : (hi4 b ++ lo4 b : Byte) = b := by
  revert b; decide

@[simp] theorem ICode.ofNibble_toNibble (c : ICode) : ICode.ofNibble c.toNibble = c := by cases c <;> rfl

@[simp] theorem ICode.toNibble_ofNibble (n : Nibble) : (ICode.ofNibble n).toNibble = n := by
  revert n; decide

@[simp] theorem RegId.ofNibble?_toNibble (r : RegId) : RegId.ofNibble? (RegId.toNibble r) = some r := by
  rcases r with _ | r
  · rfl
  · cases r <;> rfl

theorem RegId.toNibble_of_ofNibble? (n : Nibble) (r : RegId) (h : RegId.ofNibble? n = some r) :
    RegId.toNibble r = n := by
  revert n; rcases r with _ | r
  · decide
  · cases r <;> decide

@[simp] theorem AluFun.ofNibble?_toNibble (f : AluFun) : AluFun.ofNibble? f.toNibble = some f := by cases f <;> rfl

theorem AluFun.toNibble_of_ofNibble? (n : Nibble) (f : AluFun) (h : AluFun.ofNibble? n = some f) :
    f.toNibble = n := by
  revert n; cases f <;> decide

@[simp] theorem Cond.ofNibble?_toNibble (c : Cond) : Cond.ofNibble? c.toNibble = some c := by cases c <;> rfl

theorem Cond.toNibble_of_ofNibble? (n : Nibble) (c : Cond) (h : Cond.ofNibble? n = some c) : c.toNibble = n := by
  revert n; cases c <;> decide

theorem extract_append_low (n m : Nat) (a : BitVec n) (b : BitVec m) : (a ++ b).extractLsb' 0 m = b := by
  apply BitVec.eq_of_getLsbD_eq
  intro i hi
  simp [BitVec.getLsbD_append, hi]

theorem extract_append_high (n m k l : Nat) (a : BitVec n) (b : BitVec m) :
    (a ++ b).extractLsb' (m + k) l = a.extractLsb' k l := by
  apply BitVec.eq_of_getLsbD_eq
  intro i hi
  simp [BitVec.getLsbD_append, Nat.add_assoc, hi]

/-- Reading a word back from its four bytes gives the word. -/
theorem le32_leBytes (w : Word) :
    le32 (w.extractLsb' 0 8) (w.extractLsb' 8 8) (w.extractLsb' 16 8) (w.extractLsb' 24 8) = w := by
  apply BitVec.eq_of_getLsbD_eq
  intro i hi
  simp only [le32, BitVec.getLsbD_append, BitVec.getLsbD_extractLsb']
  split_ifs with h1 h2 h3
  · simp [h1]
  · have e : 8 + (i - 8) = i := by omega
    simp [h2, e]
  · have e : 16 + (i - 8 - 8) = i := by omega
    simp [h3, e]
  · have e : 24 + (i - 8 - 8 - 8) = i := by omega
    have h : i - 8 - 8 - 8 < 8 := by omega
    simp [h, e]

/-- The bytes of a word read from four bytes are those bytes. -/
theorem leBytes_le32 (b0 b1 b2 b3 : Byte) : leBytes (le32 b0 b1 b2 b3) = [b0, b1, b2, b3] := by
  simp only [leBytes, le32, List.cons.injEq, and_true]
  refine ⟨extract_append_low .., ?_, ?_, ?_⟩
  · rw [extract_append_high 24 8 0]
    exact extract_append_low ..
  · rw [extract_append_high 24 8 8, extract_append_high 16 8 0]
    exact extract_append_low ..
  · rw [extract_append_high 24 8 16, extract_append_high 16 8 8, extract_append_high 8 8 0]
    simp

@[simp] theorem leBytes_length (w : Word) : (leBytes w).length = 4 := rfl

end Sys2Proof
end

