-- ==== Sys2Proof/Laws/Memory.lean ====
section
/-! SUPPORT. Data memory: read after write, the canonical form, and what MemRead and MemWrite can do. -/

namespace Sys2Proof.Machine

/-! ## The map and the set -/

@[simp] theorem wordAt_insertWord (a k : Nat) (v : Word) (l : List (Nat × Word)) :
    wordAt k (insertWord a v l) = if a = k then some v else wordAt k l := by
  induction l with
  | nil => simp [insertWord, wordAt]
  | cons p rest ih =>
    obtain ⟨j, w⟩ := p
    by_cases h1 : a < j
    · by_cases hk : a = k
      · subst hk; simp [insertWord, wordAt, h1]
      · simp [insertWord, wordAt, h1, hk]
    · by_cases h2 : a = j
      · subst h2; by_cases hk : a = k <;> simp [insertWord, wordAt, hk]
      · by_cases hk : a = k
        · subst hk; simp [insertWord, wordAt, h1, h2, Ne.symm h2, ih]
        · simp [insertWord, wordAt, h1, h2, hk, ih]

@[simp] theorem mem_insertAddr (a k : Nat) (l : List Nat) : k ∈ insertAddr a l ↔ k = a ∨ k ∈ l := by
  induction l with
  | nil => simp [insertAddr]
  | cons j rest ih =>
    unfold insertAddr
    split_ifs with h1 h2
    · simp
    · subst h2; simp
    · simp only [List.mem_cons, ih]; tauto

/-- Rising is pairwise rising. -/
theorem rising_iff (l : List Nat) : rising l = true ↔ l.Pairwise (· < ·) := by
  induction l with
  | nil => simp [rising]
  | cons a rest ih =>
    cases rest with
    | nil => simp [rising]
    | cons b t =>
      simp only [rising, Bool.and_eq_true, decide_eq_true_eq, ih]
      constructor
      · rintro ⟨hab, hp⟩
        refine List.Pairwise.cons ?_ hp
        intro c hc
        rcases List.mem_cons.mp hc with rfl | hc
        · exact hab
        · exact hab.trans (List.rel_of_pairwise_cons hp hc)
      · intro hp
        exact ⟨List.rel_of_pairwise_cons hp (List.mem_cons_self ..), hp.of_cons⟩

theorem mem_keys_insertWord (a k : Nat) (v : Word) (l : List (Nat × Word)) :
    k ∈ (insertWord a v l).map Prod.fst ↔ k = a ∨ k ∈ l.map Prod.fst := by
  induction l with
  | nil => simp [insertWord]
  | cons p rest ih =>
    obtain ⟨j, w⟩ := p
    unfold insertWord
    split_ifs with h1 h2
    · simp
    · subst h2; simp
    · simp only [List.map_cons, List.mem_cons, ih]; tauto

theorem insertWord_rising (a : Nat) (v : Word) (l : List (Nat × Word)) (h : rising (l.map Prod.fst) = true) :
    rising ((insertWord a v l).map Prod.fst) = true := by
  rw [rising_iff] at h ⊢
  induction l with
  | nil => simp [insertWord]
  | cons p rest ih =>
    obtain ⟨j, w⟩ := p
    simp only [List.map_cons, List.pairwise_cons] at h
    unfold insertWord
    split_ifs with h1 h2
    · simp only [List.map_cons, List.pairwise_cons, List.mem_cons]
      refine ⟨?_, h⟩
      rintro c (rfl | hc)
      · exact h1
      · exact h1.trans (h.1 c hc)
    · subst h2; simpa only [List.map_cons, List.pairwise_cons] using h
    · simp only [List.map_cons, List.pairwise_cons]
      refine ⟨?_, ih h.2⟩
      intro c hc
      rcases (mem_keys_insertWord a c v rest).mp hc with rfl | hc
      · omega
      · exact h.1 c hc

theorem insertAddr_rising (a : Nat) (l : List Nat) (h : rising l = true) : rising (insertAddr a l) = true := by
  rw [rising_iff] at h ⊢
  induction l with
  | nil => simp [insertAddr]
  | cons j rest ih =>
    simp only [List.pairwise_cons] at h
    unfold insertAddr
    split_ifs with h1 h2
    · simp only [List.pairwise_cons, List.mem_cons]
      refine ⟨?_, h⟩
      rintro c (rfl | hc)
      · exact h1
      · exact h1.trans (h.1 c hc)
    · simpa only [List.pairwise_cons] using h
    · simp only [List.pairwise_cons]
      refine ⟨?_, ih h.2⟩
      intro c hc
      rcases (mem_insertAddr a c rest).mp hc with rfl | hc
      · omega
      · exact h.1 c hc

/-! ## The primitives -/

/-- Everything a data read can do: a hit, a miss inside the image, or a failure. -/
theorem Memory.read_cases (m : Memory) (a : Word) :
    (∃ v, wordAt a.toNat m.wmem = some v ∧ m.read a = ⟨true, v, m⟩) ∨
    (wordAt a.toNat m.wmem = none ∧ 0 ≤ a.toInt ∧ a.toInt + 4 ≤ m.image.length ∧
      m.read a = ⟨true, imageWord m.image a.toNat,
        ⟨m.image, insertWord a.toNat (imageWord m.image a.toNat) m.wmem, insertAddr a.toNat m.readSet⟩⟩) ∨
    (wordAt a.toNat m.wmem = none ∧ (a.toInt < 0 ∨ (m.image.length : Int) < a.toInt + 4) ∧
      m.read a = ⟨false, 0#32, m⟩) := by
  unfold Memory.read
  split
  · exact Or.inl ⟨_, ‹_›, rfl⟩
  · split_ifs with h
    · exact Or.inr (Or.inr ⟨‹_›, h, rfl⟩)
    · push Not at h
      exact Or.inr (Or.inl ⟨‹_›, h.1, h.2, rfl⟩)

/-- Everything a data write can do: a failure, or a store. -/
theorem Memory.write_cases (m : Memory) (a v : Word) :
    (¬ Writable m a ∧ m.write a v = ⟨false, m⟩) ∨
    (Writable m a ∧ m.write a v = ⟨true, { m with wmem := insertWord a.toNat v m.wmem }⟩) := by
  unfold Memory.write Writable
  split_ifs with h
  · left; refine ⟨?_, rfl⟩; rintro ⟨h0, h1⟩; rcases h with h | h
    · omega
    · exact h1 h
  · push Not at h
    exact Or.inr ⟨h, rfl⟩

@[simp] theorem Memory.read_image (m : Memory) (a : Word) : (m.read a).mem.image = m.image := by
  rcases m.read_cases a with ⟨v, _, h⟩ | ⟨_, _, _, h⟩ | ⟨_, _, h⟩ <;> rw [h]

@[simp] theorem Memory.write_image (m : Memory) (a v : Word) : (m.write a v).mem.image = m.image := by
  rcases m.write_cases a v with ⟨_, h⟩ | ⟨_, h⟩ <;> rw [h]

@[simp] theorem Memory.write_readSet (m : Memory) (a v : Word) : (m.write a v).mem.readSet = m.readSet := by
  rcases m.write_cases a v with ⟨_, h⟩ | ⟨_, h⟩ <;> rw [h]

/-- A failed read changes nothing (20_memory.md R114). -/
theorem Memory.read_failed (m : Memory) (a : Word) (h : (m.read a).ok = false) : m.read a = ⟨false, 0#32, m⟩ := by
  rcases m.read_cases a with ⟨v, _, h'⟩ | ⟨_, _, _, h'⟩ | ⟨_, _, h'⟩ <;> simp_all

/-- A failed write changes nothing (20_memory.md R114). -/
theorem Memory.write_failed (m : Memory) (a v : Word) (h : (m.write a v).ok = false) : (m.write a v).mem = m := by
  rcases m.write_cases a v with ⟨_, h'⟩ | ⟨_, h'⟩ <;> simp_all

/-! ## The canonical form -/

/-- A read keeps the canonical form. -/
theorem Memory.read_wf (m : Memory) (a : Word) (h : m.wf = true) : (m.read a).mem.wf = true := by
  rcases m.read_cases a with ⟨v, _, e⟩ | ⟨_, _, _, e⟩ | ⟨_, _, e⟩ <;> rw [e]
  · exact h
  · simp only [Memory.wf, Bool.and_eq_true] at h ⊢
    exact ⟨⟨insertWord_rising _ _ _ h.1.1, insertAddr_rising _ _ h.1.2⟩, h.2⟩
  · exact h

/-- A write keeps the canonical form. -/
theorem Memory.write_wf (m : Memory) (a v : Word) (h : m.wf = true) : (m.write a v).mem.wf = true := by
  rcases m.write_cases a v with ⟨_, e⟩ | ⟨_, e⟩ <;> rw [e]
  · exact h
  · simp only [Memory.wf, Bool.and_eq_true] at h ⊢
    exact ⟨⟨insertWord_rising _ _ _ h.1.1, h.1.2⟩, h.2⟩

/-- The memory after a load of a short enough image is in canonical form. -/
theorem Memory.loaded_wf (image : List Byte) (h : image.length < 2147483648) : (Memory.mk image [] []).wf = true := by
  simp [Memory.wf, rising, h]

theorem reset_memory_wf : State.reset.mem.wf = true := by decide

end Sys2Proof.Machine
end

