-- ==== Sys2Proof/Laws/Registers.lean ====
section
/-! SUPPORT. Reads and writes of the register file. -/

namespace Sys2Proof.Machine

@[simp] theorem RegFile.get_set (rf : RegFile) (r q : Reg) (v : Word) :
    (rf.set r v).get q = if r = q then v else rf.get q := by
  cases r <;> cases q <;> rfl

@[simp] theorem RegFile.get_all (v : Word) (r : Reg) : (RegFile.all v).get r = v := by cases r <;> rfl

@[simp] theorem RegFile.read_none (rf : RegFile) : rf.read none = 0#32 := rfl

@[simp] theorem RegFile.read_some (rf : RegFile) (r : Reg) : rf.read (some r) = rf.get r := rfl

@[simp] theorem RegFile.write_none (rf : RegFile) (v : Word) : rf.write none v = rf := rfl

@[simp] theorem RegFile.write_some (rf : RegFile) (r : Reg) (v : Word) : rf.write (some r) v = rf.set r v := rfl

@[simp] theorem RegFile.get_write (rf : RegFile) (d : RegId) (v : Word) (q : Reg) :
    (rf.write d v).get q = if d = some q then v else rf.get q := by
  cases d <;> simp

@[simp] theorem State.readReg_eq (s : State) (r : RegId) : s.readReg r = s.regs.read r := rfl

/-- Two register files that read alike are equal. -/
theorem RegFile.ext_get {a b : RegFile} (h : ∀ r, a.get r = b.get r) : a = b := by
  cases a; cases b
  have h0 := h .eax; have h1 := h .ecx; have h2 := h .edx; have h3 := h .ebx
  have h4 := h .esp; have h5 := h .ebp; have h6 := h .esi; have h7 := h .edi
  simp only [RegFile.get] at h0 h1 h2 h3 h4 h5 h6 h7
  simp [h0, h1, h2, h3, h4, h5, h6, h7]

end Sys2Proof.Machine
end

