-- ==== Sys2Proof/Laws/State.lean ====
section
/-! SUPPORT. One lemma per field per update of the state, so that no later proof unfolds a record update. -/

namespace Sys2Proof.Machine

/-! ## Registers, flags, memory -/

@[simp] theorem State.writeReg_regs (s : State) (d : RegId) (v : Word) : (s.writeReg d v).regs = s.regs.write d v := rfl
@[simp] theorem State.writeReg_cc (s : State) (d : RegId) (v : Word) : (s.writeReg d v).cc = s.cc := rfl
@[simp] theorem State.writeReg_stat (s : State) (d : RegId) (v : Word) : (s.writeReg d v).stat = s.stat := rfl
@[simp] theorem State.writeReg_cycle (s : State) (d : RegId) (v : Word) : (s.writeReg d v).cycle = s.cycle := rfl
@[simp] theorem State.writeReg_halted (s : State) (d : RegId) (v : Word) : (s.writeReg d v).halted = s.halted := rfl
@[simp] theorem State.writeReg_maxCycles (s : State) (d : RegId) (v : Word) : (s.writeReg d v).maxCycles = s.maxCycles := rfl
@[simp] theorem State.writeReg_F (s : State) (d : RegId) (v : Word) : (s.writeReg d v).F = s.F := rfl
@[simp] theorem State.writeReg_D (s : State) (d : RegId) (v : Word) : (s.writeReg d v).D = s.D := rfl
@[simp] theorem State.writeReg_E (s : State) (d : RegId) (v : Word) : (s.writeReg d v).E = s.E := rfl
@[simp] theorem State.writeReg_M (s : State) (d : RegId) (v : Word) : (s.writeReg d v).M = s.M := rfl
@[simp] theorem State.writeReg_W (s : State) (d : RegId) (v : Word) : (s.writeReg d v).W = s.W := rfl
@[simp] theorem State.writeReg_fOut (s : State) (d : RegId) (v : Word) : (s.writeReg d v).fOut = s.fOut := rfl
@[simp] theorem State.writeReg_dOut (s : State) (d : RegId) (v : Word) : (s.writeReg d v).dOut = s.dOut := rfl
@[simp] theorem State.writeReg_eOut (s : State) (d : RegId) (v : Word) : (s.writeReg d v).eOut = s.eOut := rfl
@[simp] theorem State.writeReg_mOut (s : State) (d : RegId) (v : Word) : (s.writeReg d v).mOut = s.mOut := rfl
@[simp] theorem State.writeReg_mem (s : State) (d : RegId) (v : Word) : (s.writeReg d v).mem = s.mem := rfl
@[simp] theorem State.writeReg_log (s : State) (d : RegId) (v : Word) : (s.writeReg d v).log = s.log := rfl
@[simp] theorem State.writeReg_cfg (s : State) (d : RegId) (v : Word) : (s.writeReg d v).cfg = s.cfg := rfl
@[simp] theorem State.writeReg_view (s : State) (d : RegId) (v : Word) : (s.writeReg d v).view = s.view := rfl
@[simp] theorem State.writeReg_freeIndex (s : State) (d : RegId) (v : Word) : (s.writeReg d v).freeIndex = s.freeIndex := rfl

@[simp] theorem State.setCC_regs (s : State) (cc : CC) : (s.setCC cc).regs = s.regs := rfl
@[simp] theorem State.setCC_cc (s : State) (cc : CC) : (s.setCC cc).cc = cc := rfl
@[simp] theorem State.setCC_stat (s : State) (cc : CC) : (s.setCC cc).stat = s.stat := rfl
@[simp] theorem State.setCC_cycle (s : State) (cc : CC) : (s.setCC cc).cycle = s.cycle := rfl
@[simp] theorem State.setCC_halted (s : State) (cc : CC) : (s.setCC cc).halted = s.halted := rfl
@[simp] theorem State.setCC_maxCycles (s : State) (cc : CC) : (s.setCC cc).maxCycles = s.maxCycles := rfl
@[simp] theorem State.setCC_F (s : State) (cc : CC) : (s.setCC cc).F = s.F := rfl
@[simp] theorem State.setCC_D (s : State) (cc : CC) : (s.setCC cc).D = s.D := rfl
@[simp] theorem State.setCC_E (s : State) (cc : CC) : (s.setCC cc).E = s.E := rfl
@[simp] theorem State.setCC_M (s : State) (cc : CC) : (s.setCC cc).M = s.M := rfl
@[simp] theorem State.setCC_W (s : State) (cc : CC) : (s.setCC cc).W = s.W := rfl
@[simp] theorem State.setCC_fOut (s : State) (cc : CC) : (s.setCC cc).fOut = s.fOut := rfl
@[simp] theorem State.setCC_dOut (s : State) (cc : CC) : (s.setCC cc).dOut = s.dOut := rfl
@[simp] theorem State.setCC_eOut (s : State) (cc : CC) : (s.setCC cc).eOut = s.eOut := rfl
@[simp] theorem State.setCC_mOut (s : State) (cc : CC) : (s.setCC cc).mOut = s.mOut := rfl
@[simp] theorem State.setCC_mem (s : State) (cc : CC) : (s.setCC cc).mem = s.mem := rfl
@[simp] theorem State.setCC_log (s : State) (cc : CC) : (s.setCC cc).log = s.log := rfl
@[simp] theorem State.setCC_cfg (s : State) (cc : CC) : (s.setCC cc).cfg = s.cfg := rfl
@[simp] theorem State.setCC_view (s : State) (cc : CC) : (s.setCC cc).view = s.view := rfl
@[simp] theorem State.setCC_freeIndex (s : State) (cc : CC) : (s.setCC cc).freeIndex = s.freeIndex := rfl

@[simp] theorem State.setMem_regs (s : State) (m : Memory) : (s.setMem m).regs = s.regs := rfl
@[simp] theorem State.setMem_cc (s : State) (m : Memory) : (s.setMem m).cc = s.cc := rfl
@[simp] theorem State.setMem_stat (s : State) (m : Memory) : (s.setMem m).stat = s.stat := rfl
@[simp] theorem State.setMem_cycle (s : State) (m : Memory) : (s.setMem m).cycle = s.cycle := rfl
@[simp] theorem State.setMem_halted (s : State) (m : Memory) : (s.setMem m).halted = s.halted := rfl
@[simp] theorem State.setMem_maxCycles (s : State) (m : Memory) : (s.setMem m).maxCycles = s.maxCycles := rfl
@[simp] theorem State.setMem_F (s : State) (m : Memory) : (s.setMem m).F = s.F := rfl
@[simp] theorem State.setMem_D (s : State) (m : Memory) : (s.setMem m).D = s.D := rfl
@[simp] theorem State.setMem_E (s : State) (m : Memory) : (s.setMem m).E = s.E := rfl
@[simp] theorem State.setMem_M (s : State) (m : Memory) : (s.setMem m).M = s.M := rfl
@[simp] theorem State.setMem_W (s : State) (m : Memory) : (s.setMem m).W = s.W := rfl
@[simp] theorem State.setMem_fOut (s : State) (m : Memory) : (s.setMem m).fOut = s.fOut := rfl
@[simp] theorem State.setMem_dOut (s : State) (m : Memory) : (s.setMem m).dOut = s.dOut := rfl
@[simp] theorem State.setMem_eOut (s : State) (m : Memory) : (s.setMem m).eOut = s.eOut := rfl
@[simp] theorem State.setMem_mOut (s : State) (m : Memory) : (s.setMem m).mOut = s.mOut := rfl
@[simp] theorem State.setMem_mem (s : State) (m : Memory) : (s.setMem m).mem = m := rfl
@[simp] theorem State.setMem_log (s : State) (m : Memory) : (s.setMem m).log = s.log := rfl
@[simp] theorem State.setMem_cfg (s : State) (m : Memory) : (s.setMem m).cfg = s.cfg := rfl
@[simp] theorem State.setMem_view (s : State) (m : Memory) : (s.setMem m).view = s.view := rfl
@[simp] theorem State.setMem_freeIndex (s : State) (m : Memory) : (s.setMem m).freeIndex = s.freeIndex := rfl

/-! ## Statuses and the sequential program counter -/

@[simp] theorem State.takeStatus_regs (s : State) (st : Status) : (s.takeStatus st).regs = s.regs := rfl
@[simp] theorem State.takeStatus_cc (s : State) (st : Status) : (s.takeStatus st).cc = s.cc := rfl
@[simp] theorem State.takeStatus_stat (s : State) (st : Status) : (s.takeStatus st).stat = if st = .bubble then s.stat else st := rfl
@[simp] theorem State.takeStatus_cycle (s : State) (st : Status) : (s.takeStatus st).cycle = s.cycle := rfl
@[simp] theorem State.takeStatus_halted (s : State) (st : Status) : (s.takeStatus st).halted = (s.halted || st.faulty) := rfl
@[simp] theorem State.takeStatus_maxCycles (s : State) (st : Status) : (s.takeStatus st).maxCycles = s.maxCycles := rfl
@[simp] theorem State.takeStatus_F (s : State) (st : Status) : (s.takeStatus st).F = s.F := rfl
@[simp] theorem State.takeStatus_D (s : State) (st : Status) : (s.takeStatus st).D = s.D := rfl
@[simp] theorem State.takeStatus_E (s : State) (st : Status) : (s.takeStatus st).E = s.E := rfl
@[simp] theorem State.takeStatus_M (s : State) (st : Status) : (s.takeStatus st).M = s.M := rfl
@[simp] theorem State.takeStatus_W (s : State) (st : Status) : (s.takeStatus st).W = s.W := rfl
@[simp] theorem State.takeStatus_fOut (s : State) (st : Status) : (s.takeStatus st).fOut = s.fOut := rfl
@[simp] theorem State.takeStatus_dOut (s : State) (st : Status) : (s.takeStatus st).dOut = s.dOut := rfl
@[simp] theorem State.takeStatus_eOut (s : State) (st : Status) : (s.takeStatus st).eOut = s.eOut := rfl
@[simp] theorem State.takeStatus_mOut (s : State) (st : Status) : (s.takeStatus st).mOut = s.mOut := rfl
@[simp] theorem State.takeStatus_mem (s : State) (st : Status) : (s.takeStatus st).mem = s.mem := rfl
@[simp] theorem State.takeStatus_log (s : State) (st : Status) : (s.takeStatus st).log = s.log := rfl
@[simp] theorem State.takeStatus_cfg (s : State) (st : Status) : (s.takeStatus st).cfg = s.cfg := rfl
@[simp] theorem State.takeStatus_view (s : State) (st : Status) : (s.takeStatus st).view = s.view := rfl
@[simp] theorem State.takeStatus_freeIndex (s : State) (st : Status) : (s.takeStatus st).freeIndex = s.freeIndex := rfl

@[simp] theorem State.setSeqPC_regs (s : State) (pc : Word) : (s.setSeqPC pc).regs = s.regs := rfl
@[simp] theorem State.setSeqPC_cc (s : State) (pc : Word) : (s.setSeqPC pc).cc = s.cc := rfl
@[simp] theorem State.setSeqPC_stat (s : State) (pc : Word) : (s.setSeqPC pc).stat = s.stat := rfl
@[simp] theorem State.setSeqPC_cycle (s : State) (pc : Word) : (s.setSeqPC pc).cycle = s.cycle := rfl
@[simp] theorem State.setSeqPC_halted (s : State) (pc : Word) : (s.setSeqPC pc).halted = s.halted := rfl
@[simp] theorem State.setSeqPC_maxCycles (s : State) (pc : Word) : (s.setSeqPC pc).maxCycles = s.maxCycles := rfl
@[simp] theorem State.setSeqPC_F (s : State) (pc : Word) : (s.setSeqPC pc).F = { s.F with predPC := pc } := rfl
@[simp] theorem State.setSeqPC_D (s : State) (pc : Word) : (s.setSeqPC pc).D = s.D := rfl
@[simp] theorem State.setSeqPC_E (s : State) (pc : Word) : (s.setSeqPC pc).E = s.E := rfl
@[simp] theorem State.setSeqPC_M (s : State) (pc : Word) : (s.setSeqPC pc).M = s.M := rfl
@[simp] theorem State.setSeqPC_W (s : State) (pc : Word) : (s.setSeqPC pc).W = s.W := rfl
@[simp] theorem State.setSeqPC_fOut (s : State) (pc : Word) : (s.setSeqPC pc).fOut = { s.fOut with predPC := pc } := rfl
@[simp] theorem State.setSeqPC_dOut (s : State) (pc : Word) : (s.setSeqPC pc).dOut = s.dOut := rfl
@[simp] theorem State.setSeqPC_eOut (s : State) (pc : Word) : (s.setSeqPC pc).eOut = s.eOut := rfl
@[simp] theorem State.setSeqPC_mOut (s : State) (pc : Word) : (s.setSeqPC pc).mOut = s.mOut := rfl
@[simp] theorem State.setSeqPC_mem (s : State) (pc : Word) : (s.setSeqPC pc).mem = s.mem := rfl
@[simp] theorem State.setSeqPC_log (s : State) (pc : Word) : (s.setSeqPC pc).log = s.log := rfl
@[simp] theorem State.setSeqPC_cfg (s : State) (pc : Word) : (s.setSeqPC pc).cfg = s.cfg := rfl
@[simp] theorem State.setSeqPC_view (s : State) (pc : Word) : (s.setSeqPC pc).view = s.view := rfl
@[simp] theorem State.setSeqPC_freeIndex (s : State) (pc : Word) : (s.setSeqPC pc).freeIndex = s.freeIndex := rfl

@[simp] theorem State.setSeqPC_seqPC (s : State) (pc : Word) : (s.setSeqPC pc).seqPC = pc := rfl

/-! ## Write-back: what it leaves alone -/

@[simp] theorem State.commit_cc (s : State) (st : Status) (dE : RegId) (vE : Word) (dM : RegId) (vM : Word) : (s.commit st dE vE dM vM).cc = s.cc := by
  unfold State.commit; split
  · rfl
  · split
    · split <;> rfl
    · rfl
@[simp] theorem State.commit_stat (s : State) (st : Status) (dE : RegId) (vE : Word) (dM : RegId) (vM : Word) : (s.commit st dE vE dM vM).stat = s.stat := by
  unfold State.commit; split
  · rfl
  · split
    · split <;> rfl
    · rfl
@[simp] theorem State.commit_cycle (s : State) (st : Status) (dE : RegId) (vE : Word) (dM : RegId) (vM : Word) : (s.commit st dE vE dM vM).cycle = s.cycle := by
  unfold State.commit; split
  · rfl
  · split
    · split <;> rfl
    · rfl
@[simp] theorem State.commit_halted (s : State) (st : Status) (dE : RegId) (vE : Word) (dM : RegId) (vM : Word) : (s.commit st dE vE dM vM).halted = s.halted := by
  unfold State.commit; split
  · rfl
  · split
    · split <;> rfl
    · rfl
@[simp] theorem State.commit_maxCycles (s : State) (st : Status) (dE : RegId) (vE : Word) (dM : RegId) (vM : Word) : (s.commit st dE vE dM vM).maxCycles = s.maxCycles := by
  unfold State.commit; split
  · rfl
  · split
    · split <;> rfl
    · rfl
@[simp] theorem State.commit_F (s : State) (st : Status) (dE : RegId) (vE : Word) (dM : RegId) (vM : Word) : (s.commit st dE vE dM vM).F = s.F := by
  unfold State.commit; split
  · rfl
  · split
    · split <;> rfl
    · rfl
@[simp] theorem State.commit_D (s : State) (st : Status) (dE : RegId) (vE : Word) (dM : RegId) (vM : Word) : (s.commit st dE vE dM vM).D = s.D := by
  unfold State.commit; split
  · rfl
  · split
    · split <;> rfl
    · rfl
@[simp] theorem State.commit_E (s : State) (st : Status) (dE : RegId) (vE : Word) (dM : RegId) (vM : Word) : (s.commit st dE vE dM vM).E = s.E := by
  unfold State.commit; split
  · rfl
  · split
    · split <;> rfl
    · rfl
@[simp] theorem State.commit_M (s : State) (st : Status) (dE : RegId) (vE : Word) (dM : RegId) (vM : Word) : (s.commit st dE vE dM vM).M = s.M := by
  unfold State.commit; split
  · rfl
  · split
    · split <;> rfl
    · rfl
@[simp] theorem State.commit_W (s : State) (st : Status) (dE : RegId) (vE : Word) (dM : RegId) (vM : Word) : (s.commit st dE vE dM vM).W = s.W := by
  unfold State.commit; split
  · rfl
  · split
    · split <;> rfl
    · rfl
@[simp] theorem State.commit_fOut (s : State) (st : Status) (dE : RegId) (vE : Word) (dM : RegId) (vM : Word) : (s.commit st dE vE dM vM).fOut = s.fOut := by
  unfold State.commit; split
  · rfl
  · split
    · split <;> rfl
    · rfl
@[simp] theorem State.commit_dOut (s : State) (st : Status) (dE : RegId) (vE : Word) (dM : RegId) (vM : Word) : (s.commit st dE vE dM vM).dOut = s.dOut := by
  unfold State.commit; split
  · rfl
  · split
    · split <;> rfl
    · rfl
@[simp] theorem State.commit_eOut (s : State) (st : Status) (dE : RegId) (vE : Word) (dM : RegId) (vM : Word) : (s.commit st dE vE dM vM).eOut = s.eOut := by
  unfold State.commit; split
  · rfl
  · split
    · split <;> rfl
    · rfl
@[simp] theorem State.commit_mOut (s : State) (st : Status) (dE : RegId) (vE : Word) (dM : RegId) (vM : Word) : (s.commit st dE vE dM vM).mOut = s.mOut := by
  unfold State.commit; split
  · rfl
  · split
    · split <;> rfl
    · rfl
@[simp] theorem State.commit_mem (s : State) (st : Status) (dE : RegId) (vE : Word) (dM : RegId) (vM : Word) : (s.commit st dE vE dM vM).mem = s.mem := by
  unfold State.commit; split
  · rfl
  · split
    · split <;> rfl
    · rfl
@[simp] theorem State.commit_log (s : State) (st : Status) (dE : RegId) (vE : Word) (dM : RegId) (vM : Word) : (s.commit st dE vE dM vM).log = s.log := by
  unfold State.commit; split
  · rfl
  · split
    · split <;> rfl
    · rfl
@[simp] theorem State.commit_cfg (s : State) (st : Status) (dE : RegId) (vE : Word) (dM : RegId) (vM : Word) : (s.commit st dE vE dM vM).cfg = s.cfg := by
  unfold State.commit; split
  · rfl
  · split
    · split <;> rfl
    · rfl
@[simp] theorem State.commit_view (s : State) (st : Status) (dE : RegId) (vE : Word) (dM : RegId) (vM : Word) : (s.commit st dE vE dM vM).view = s.view := by
  unfold State.commit; split
  · rfl
  · split
    · split <;> rfl
    · rfl

/-! ## The latches -/

@[simp] theorem State.latchW_regs (s : State) (mode : LatchMode) : (s.latchW mode).regs = s.regs := by cases mode <;> rfl
@[simp] theorem State.latchW_cc (s : State) (mode : LatchMode) : (s.latchW mode).cc = s.cc := by cases mode <;> rfl
@[simp] theorem State.latchW_stat (s : State) (mode : LatchMode) : (s.latchW mode).stat = s.stat := by cases mode <;> rfl
@[simp] theorem State.latchW_cycle (s : State) (mode : LatchMode) : (s.latchW mode).cycle = s.cycle := by cases mode <;> rfl
@[simp] theorem State.latchW_halted (s : State) (mode : LatchMode) : (s.latchW mode).halted = s.halted := by cases mode <;> rfl
@[simp] theorem State.latchW_maxCycles (s : State) (mode : LatchMode) : (s.latchW mode).maxCycles = s.maxCycles := by cases mode <;> rfl
@[simp] theorem State.latchW_F (s : State) (mode : LatchMode) : (s.latchW mode).F = s.F := by cases mode <;> rfl
@[simp] theorem State.latchW_D (s : State) (mode : LatchMode) : (s.latchW mode).D = s.D := by cases mode <;> rfl
@[simp] theorem State.latchW_E (s : State) (mode : LatchMode) : (s.latchW mode).E = s.E := by cases mode <;> rfl
@[simp] theorem State.latchW_M (s : State) (mode : LatchMode) : (s.latchW mode).M = s.M := by cases mode <;> rfl
@[simp] theorem State.latchW_fOut (s : State) (mode : LatchMode) : (s.latchW mode).fOut = s.fOut := by cases mode <;> rfl
@[simp] theorem State.latchW_dOut (s : State) (mode : LatchMode) : (s.latchW mode).dOut = s.dOut := by cases mode <;> rfl
@[simp] theorem State.latchW_eOut (s : State) (mode : LatchMode) : (s.latchW mode).eOut = s.eOut := by cases mode <;> rfl
@[simp] theorem State.latchW_mOut (s : State) (mode : LatchMode) : (s.latchW mode).mOut = s.mOut := by cases mode <;> rfl
@[simp] theorem State.latchW_mem (s : State) (mode : LatchMode) : (s.latchW mode).mem = s.mem := by cases mode <;> rfl
@[simp] theorem State.latchW_log (s : State) (mode : LatchMode) : (s.latchW mode).log = s.log := by cases mode <;> rfl
@[simp] theorem State.latchW_cfg (s : State) (mode : LatchMode) : (s.latchW mode).cfg = s.cfg := by cases mode <;> rfl
@[simp] theorem State.latchW_view (s : State) (mode : LatchMode) : (s.latchW mode).view = s.view := by cases mode <;> rfl
@[simp] theorem State.latchW_freeIndex (s : State) (mode : LatchMode) : (s.latchW mode).freeIndex = s.freeIndex := by cases mode <;> rfl
@[simp] theorem State.latchW_latch (s : State) : (s.latchW .latch).W = s.mOut := rfl
@[simp] theorem State.latchW_bubble (s : State) : (s.latchW .bubble).W = WReg.bubble := rfl
@[simp] theorem State.latchW_stall (s : State) : s.latchW .stall = s := rfl

@[simp] theorem State.latchM_regs (s : State) (mode : LatchMode) : (s.latchM mode).regs = s.regs := by cases mode <;> rfl
@[simp] theorem State.latchM_cc (s : State) (mode : LatchMode) : (s.latchM mode).cc = s.cc := by cases mode <;> rfl
@[simp] theorem State.latchM_stat (s : State) (mode : LatchMode) : (s.latchM mode).stat = s.stat := by cases mode <;> rfl
@[simp] theorem State.latchM_cycle (s : State) (mode : LatchMode) : (s.latchM mode).cycle = s.cycle := by cases mode <;> rfl
@[simp] theorem State.latchM_halted (s : State) (mode : LatchMode) : (s.latchM mode).halted = s.halted := by cases mode <;> rfl
@[simp] theorem State.latchM_maxCycles (s : State) (mode : LatchMode) : (s.latchM mode).maxCycles = s.maxCycles := by cases mode <;> rfl
@[simp] theorem State.latchM_F (s : State) (mode : LatchMode) : (s.latchM mode).F = s.F := by cases mode <;> rfl
@[simp] theorem State.latchM_D (s : State) (mode : LatchMode) : (s.latchM mode).D = s.D := by cases mode <;> rfl
@[simp] theorem State.latchM_E (s : State) (mode : LatchMode) : (s.latchM mode).E = s.E := by cases mode <;> rfl
@[simp] theorem State.latchM_W (s : State) (mode : LatchMode) : (s.latchM mode).W = s.W := by cases mode <;> rfl
@[simp] theorem State.latchM_fOut (s : State) (mode : LatchMode) : (s.latchM mode).fOut = s.fOut := by cases mode <;> rfl
@[simp] theorem State.latchM_dOut (s : State) (mode : LatchMode) : (s.latchM mode).dOut = s.dOut := by cases mode <;> rfl
@[simp] theorem State.latchM_eOut (s : State) (mode : LatchMode) : (s.latchM mode).eOut = s.eOut := by cases mode <;> rfl
@[simp] theorem State.latchM_mOut (s : State) (mode : LatchMode) : (s.latchM mode).mOut = s.mOut := by cases mode <;> rfl
@[simp] theorem State.latchM_mem (s : State) (mode : LatchMode) : (s.latchM mode).mem = s.mem := by cases mode <;> rfl
@[simp] theorem State.latchM_log (s : State) (mode : LatchMode) : (s.latchM mode).log = s.log := by cases mode <;> rfl
@[simp] theorem State.latchM_cfg (s : State) (mode : LatchMode) : (s.latchM mode).cfg = s.cfg := by cases mode <;> rfl
@[simp] theorem State.latchM_view (s : State) (mode : LatchMode) : (s.latchM mode).view = s.view := by cases mode <;> rfl
@[simp] theorem State.latchM_freeIndex (s : State) (mode : LatchMode) : (s.latchM mode).freeIndex = s.freeIndex := by cases mode <;> rfl
@[simp] theorem State.latchM_latch (s : State) : (s.latchM .latch).M = s.eOut := rfl
@[simp] theorem State.latchM_bubble (s : State) : (s.latchM .bubble).M = MReg.bubble := rfl
@[simp] theorem State.latchM_stall (s : State) : s.latchM .stall = s := rfl

@[simp] theorem State.latchE_regs (s : State) (mode : LatchMode) : (s.latchE mode).regs = s.regs := by cases mode <;> rfl
@[simp] theorem State.latchE_cc (s : State) (mode : LatchMode) : (s.latchE mode).cc = s.cc := by cases mode <;> rfl
@[simp] theorem State.latchE_stat (s : State) (mode : LatchMode) : (s.latchE mode).stat = s.stat := by cases mode <;> rfl
@[simp] theorem State.latchE_cycle (s : State) (mode : LatchMode) : (s.latchE mode).cycle = s.cycle := by cases mode <;> rfl
@[simp] theorem State.latchE_halted (s : State) (mode : LatchMode) : (s.latchE mode).halted = s.halted := by cases mode <;> rfl
@[simp] theorem State.latchE_maxCycles (s : State) (mode : LatchMode) : (s.latchE mode).maxCycles = s.maxCycles := by cases mode <;> rfl
@[simp] theorem State.latchE_F (s : State) (mode : LatchMode) : (s.latchE mode).F = s.F := by cases mode <;> rfl
@[simp] theorem State.latchE_D (s : State) (mode : LatchMode) : (s.latchE mode).D = s.D := by cases mode <;> rfl
@[simp] theorem State.latchE_M (s : State) (mode : LatchMode) : (s.latchE mode).M = s.M := by cases mode <;> rfl
@[simp] theorem State.latchE_W (s : State) (mode : LatchMode) : (s.latchE mode).W = s.W := by cases mode <;> rfl
@[simp] theorem State.latchE_fOut (s : State) (mode : LatchMode) : (s.latchE mode).fOut = s.fOut := by cases mode <;> rfl
@[simp] theorem State.latchE_dOut (s : State) (mode : LatchMode) : (s.latchE mode).dOut = s.dOut := by cases mode <;> rfl
@[simp] theorem State.latchE_eOut (s : State) (mode : LatchMode) : (s.latchE mode).eOut = s.eOut := by cases mode <;> rfl
@[simp] theorem State.latchE_mOut (s : State) (mode : LatchMode) : (s.latchE mode).mOut = s.mOut := by cases mode <;> rfl
@[simp] theorem State.latchE_mem (s : State) (mode : LatchMode) : (s.latchE mode).mem = s.mem := by cases mode <;> rfl
@[simp] theorem State.latchE_log (s : State) (mode : LatchMode) : (s.latchE mode).log = s.log := by cases mode <;> rfl
@[simp] theorem State.latchE_cfg (s : State) (mode : LatchMode) : (s.latchE mode).cfg = s.cfg := by cases mode <;> rfl
@[simp] theorem State.latchE_view (s : State) (mode : LatchMode) : (s.latchE mode).view = s.view := by cases mode <;> rfl
@[simp] theorem State.latchE_freeIndex (s : State) (mode : LatchMode) : (s.latchE mode).freeIndex = s.freeIndex := by cases mode <;> rfl
@[simp] theorem State.latchE_latch (s : State) : (s.latchE .latch).E = s.dOut := rfl
@[simp] theorem State.latchE_bubble (s : State) : (s.latchE .bubble).E = EReg.bubble := rfl
@[simp] theorem State.latchE_stall (s : State) : s.latchE .stall = s := rfl

@[simp] theorem State.latchD_regs (s : State) (mode : LatchMode) : (s.latchD mode).regs = s.regs := by cases mode <;> rfl
@[simp] theorem State.latchD_cc (s : State) (mode : LatchMode) : (s.latchD mode).cc = s.cc := by cases mode <;> rfl
@[simp] theorem State.latchD_stat (s : State) (mode : LatchMode) : (s.latchD mode).stat = s.stat := by cases mode <;> rfl
@[simp] theorem State.latchD_cycle (s : State) (mode : LatchMode) : (s.latchD mode).cycle = s.cycle := by cases mode <;> rfl
@[simp] theorem State.latchD_halted (s : State) (mode : LatchMode) : (s.latchD mode).halted = s.halted := by cases mode <;> rfl
@[simp] theorem State.latchD_maxCycles (s : State) (mode : LatchMode) : (s.latchD mode).maxCycles = s.maxCycles := by cases mode <;> rfl
@[simp] theorem State.latchD_F (s : State) (mode : LatchMode) : (s.latchD mode).F = s.F := by cases mode <;> rfl
@[simp] theorem State.latchD_E (s : State) (mode : LatchMode) : (s.latchD mode).E = s.E := by cases mode <;> rfl
@[simp] theorem State.latchD_M (s : State) (mode : LatchMode) : (s.latchD mode).M = s.M := by cases mode <;> rfl
@[simp] theorem State.latchD_W (s : State) (mode : LatchMode) : (s.latchD mode).W = s.W := by cases mode <;> rfl
@[simp] theorem State.latchD_fOut (s : State) (mode : LatchMode) : (s.latchD mode).fOut = s.fOut := by cases mode <;> rfl
@[simp] theorem State.latchD_dOut (s : State) (mode : LatchMode) : (s.latchD mode).dOut = s.dOut := by cases mode <;> rfl
@[simp] theorem State.latchD_eOut (s : State) (mode : LatchMode) : (s.latchD mode).eOut = s.eOut := by cases mode <;> rfl
@[simp] theorem State.latchD_mOut (s : State) (mode : LatchMode) : (s.latchD mode).mOut = s.mOut := by cases mode <;> rfl
@[simp] theorem State.latchD_mem (s : State) (mode : LatchMode) : (s.latchD mode).mem = s.mem := by cases mode <;> rfl
@[simp] theorem State.latchD_log (s : State) (mode : LatchMode) : (s.latchD mode).log = s.log := by cases mode <;> rfl
@[simp] theorem State.latchD_cfg (s : State) (mode : LatchMode) : (s.latchD mode).cfg = s.cfg := by cases mode <;> rfl
@[simp] theorem State.latchD_view (s : State) (mode : LatchMode) : (s.latchD mode).view = s.view := by cases mode <;> rfl
@[simp] theorem State.latchD_freeIndex (s : State) (mode : LatchMode) : (s.latchD mode).freeIndex = s.freeIndex := by cases mode <;> rfl
@[simp] theorem State.latchD_latch (s : State) : (s.latchD .latch).D = s.fOut.toD := rfl
@[simp] theorem State.latchD_bubble (s : State) : (s.latchD .bubble).D = DReg.bubble := rfl
@[simp] theorem State.latchD_stall (s : State) : s.latchD .stall = s := rfl

@[simp] theorem State.latchF_regs (s : State) (mode : LatchMode) : (s.latchF mode).regs = s.regs := by cases mode <;> rfl
@[simp] theorem State.latchF_cc (s : State) (mode : LatchMode) : (s.latchF mode).cc = s.cc := by cases mode <;> rfl
@[simp] theorem State.latchF_stat (s : State) (mode : LatchMode) : (s.latchF mode).stat = s.stat := by cases mode <;> rfl
@[simp] theorem State.latchF_cycle (s : State) (mode : LatchMode) : (s.latchF mode).cycle = s.cycle := by cases mode <;> rfl
@[simp] theorem State.latchF_halted (s : State) (mode : LatchMode) : (s.latchF mode).halted = s.halted := by cases mode <;> rfl
@[simp] theorem State.latchF_maxCycles (s : State) (mode : LatchMode) : (s.latchF mode).maxCycles = s.maxCycles := by cases mode <;> rfl
@[simp] theorem State.latchF_D (s : State) (mode : LatchMode) : (s.latchF mode).D = s.D := by cases mode <;> rfl
@[simp] theorem State.latchF_E (s : State) (mode : LatchMode) : (s.latchF mode).E = s.E := by cases mode <;> rfl
@[simp] theorem State.latchF_M (s : State) (mode : LatchMode) : (s.latchF mode).M = s.M := by cases mode <;> rfl
@[simp] theorem State.latchF_W (s : State) (mode : LatchMode) : (s.latchF mode).W = s.W := by cases mode <;> rfl
@[simp] theorem State.latchF_fOut (s : State) (mode : LatchMode) : (s.latchF mode).fOut = s.fOut := by cases mode <;> rfl
@[simp] theorem State.latchF_dOut (s : State) (mode : LatchMode) : (s.latchF mode).dOut = s.dOut := by cases mode <;> rfl
@[simp] theorem State.latchF_eOut (s : State) (mode : LatchMode) : (s.latchF mode).eOut = s.eOut := by cases mode <;> rfl
@[simp] theorem State.latchF_mOut (s : State) (mode : LatchMode) : (s.latchF mode).mOut = s.mOut := by cases mode <;> rfl
@[simp] theorem State.latchF_mem (s : State) (mode : LatchMode) : (s.latchF mode).mem = s.mem := by cases mode <;> rfl
@[simp] theorem State.latchF_log (s : State) (mode : LatchMode) : (s.latchF mode).log = s.log := by cases mode <;> rfl
@[simp] theorem State.latchF_cfg (s : State) (mode : LatchMode) : (s.latchF mode).cfg = s.cfg := by cases mode <;> rfl
@[simp] theorem State.latchF_view (s : State) (mode : LatchMode) : (s.latchF mode).view = s.view := by cases mode <;> rfl
@[simp] theorem State.latchF_freeIndex (s : State) (mode : LatchMode) : (s.latchF mode).freeIndex = s.freeIndex := by cases mode <;> rfl
@[simp] theorem State.latchF_latch (s : State) : (s.latchF .latch).F = ⟨.ok, s.fOut.predPC⟩ := rfl
@[simp] theorem State.latchF_bubble (s : State) : (s.latchF .bubble).F = ⟨.bubble, s.fOut.predPC⟩ := rfl
@[simp] theorem State.latchF_stall (s : State) : s.latchF .stall = s := rfl

/-! ## The stage computations -/

@[simp] theorem State.writebackCompute_cc (s : State) : (s.writebackCompute).cc = s.cc := by simp [State.writebackCompute]
@[simp] theorem State.writebackCompute_stat (s : State) : (s.writebackCompute).stat = s.stat := by simp [State.writebackCompute]
@[simp] theorem State.writebackCompute_cycle (s : State) : (s.writebackCompute).cycle = s.cycle := by simp [State.writebackCompute]
@[simp] theorem State.writebackCompute_halted (s : State) : (s.writebackCompute).halted = s.halted := by simp [State.writebackCompute]
@[simp] theorem State.writebackCompute_maxCycles (s : State) : (s.writebackCompute).maxCycles = s.maxCycles := by simp [State.writebackCompute]
@[simp] theorem State.writebackCompute_F (s : State) : (s.writebackCompute).F = s.F := by simp [State.writebackCompute]
@[simp] theorem State.writebackCompute_D (s : State) : (s.writebackCompute).D = s.D := by simp [State.writebackCompute]
@[simp] theorem State.writebackCompute_E (s : State) : (s.writebackCompute).E = s.E := by simp [State.writebackCompute]
@[simp] theorem State.writebackCompute_M (s : State) : (s.writebackCompute).M = s.M := by simp [State.writebackCompute]
@[simp] theorem State.writebackCompute_W (s : State) : (s.writebackCompute).W = s.W := by simp [State.writebackCompute]
@[simp] theorem State.writebackCompute_fOut (s : State) : (s.writebackCompute).fOut = s.fOut := by simp [State.writebackCompute]
@[simp] theorem State.writebackCompute_dOut (s : State) : (s.writebackCompute).dOut = s.dOut := by simp [State.writebackCompute]
@[simp] theorem State.writebackCompute_eOut (s : State) : (s.writebackCompute).eOut = s.eOut := by simp [State.writebackCompute]
@[simp] theorem State.writebackCompute_mOut (s : State) : (s.writebackCompute).mOut = s.mOut := by simp [State.writebackCompute]
@[simp] theorem State.writebackCompute_mem (s : State) : (s.writebackCompute).mem = s.mem := by simp [State.writebackCompute]
@[simp] theorem State.writebackCompute_log (s : State) : (s.writebackCompute).log = s.log := by simp [State.writebackCompute]
@[simp] theorem State.writebackCompute_cfg (s : State) : (s.writebackCompute).cfg = s.cfg := by simp [State.writebackCompute]
@[simp] theorem State.writebackCompute_view (s : State) : (s.writebackCompute).view = s.view := by simp [State.writebackCompute]

@[simp] theorem State.memoryCompute_regs (s : State) : (s.memoryCompute).regs = s.regs := by
  unfold State.memoryCompute; split
  · rfl
  · split <;> rfl
@[simp] theorem State.memoryCompute_cc (s : State) : (s.memoryCompute).cc = s.cc := by
  unfold State.memoryCompute; split
  · rfl
  · split <;> rfl
@[simp] theorem State.memoryCompute_stat (s : State) : (s.memoryCompute).stat = s.stat := by
  unfold State.memoryCompute; split
  · rfl
  · split <;> rfl
@[simp] theorem State.memoryCompute_cycle (s : State) : (s.memoryCompute).cycle = s.cycle := by
  unfold State.memoryCompute; split
  · rfl
  · split <;> rfl
@[simp] theorem State.memoryCompute_halted (s : State) : (s.memoryCompute).halted = s.halted := by
  unfold State.memoryCompute; split
  · rfl
  · split <;> rfl
@[simp] theorem State.memoryCompute_maxCycles (s : State) : (s.memoryCompute).maxCycles = s.maxCycles := by
  unfold State.memoryCompute; split
  · rfl
  · split <;> rfl
@[simp] theorem State.memoryCompute_F (s : State) : (s.memoryCompute).F = s.F := by
  unfold State.memoryCompute; split
  · rfl
  · split <;> rfl
@[simp] theorem State.memoryCompute_D (s : State) : (s.memoryCompute).D = s.D := by
  unfold State.memoryCompute; split
  · rfl
  · split <;> rfl
@[simp] theorem State.memoryCompute_E (s : State) : (s.memoryCompute).E = s.E := by
  unfold State.memoryCompute; split
  · rfl
  · split <;> rfl
@[simp] theorem State.memoryCompute_M (s : State) : (s.memoryCompute).M = s.M := by
  unfold State.memoryCompute; split
  · rfl
  · split <;> rfl
@[simp] theorem State.memoryCompute_W (s : State) : (s.memoryCompute).W = s.W := by
  unfold State.memoryCompute; split
  · rfl
  · split <;> rfl
@[simp] theorem State.memoryCompute_fOut (s : State) : (s.memoryCompute).fOut = s.fOut := by
  unfold State.memoryCompute; split
  · rfl
  · split <;> rfl
@[simp] theorem State.memoryCompute_dOut (s : State) : (s.memoryCompute).dOut = s.dOut := by
  unfold State.memoryCompute; split
  · rfl
  · split <;> rfl
@[simp] theorem State.memoryCompute_eOut (s : State) : (s.memoryCompute).eOut = s.eOut := by
  unfold State.memoryCompute; split
  · rfl
  · split <;> rfl
@[simp] theorem State.memoryCompute_log (s : State) : (s.memoryCompute).log = s.log := by
  unfold State.memoryCompute; split
  · rfl
  · split <;> rfl
@[simp] theorem State.memoryCompute_cfg (s : State) : (s.memoryCompute).cfg = s.cfg := by
  unfold State.memoryCompute; split
  · rfl
  · split <;> rfl
@[simp] theorem State.memoryCompute_view (s : State) : (s.memoryCompute).view = s.view := by
  unfold State.memoryCompute; split
  · rfl
  · split <;> rfl
@[simp] theorem State.memoryCompute_freeIndex (s : State) : (s.memoryCompute).freeIndex = s.freeIndex := by
  unfold State.memoryCompute; split
  · rfl
  · split <;> rfl

@[simp] theorem State.executeCompute_regs (s : State) : (s.executeCompute).regs = s.regs := rfl
@[simp] theorem State.executeCompute_cc (s : State) : (s.executeCompute).cc = if s.setsCC then flagsOf (execPre s.E) else s.cc := rfl
@[simp] theorem State.executeCompute_stat (s : State) : (s.executeCompute).stat = s.stat := rfl
@[simp] theorem State.executeCompute_cycle (s : State) : (s.executeCompute).cycle = s.cycle := rfl
@[simp] theorem State.executeCompute_halted (s : State) : (s.executeCompute).halted = s.halted := rfl
@[simp] theorem State.executeCompute_maxCycles (s : State) : (s.executeCompute).maxCycles = s.maxCycles := rfl
@[simp] theorem State.executeCompute_F (s : State) : (s.executeCompute).F = s.F := rfl
@[simp] theorem State.executeCompute_D (s : State) : (s.executeCompute).D = s.D := rfl
@[simp] theorem State.executeCompute_E (s : State) : (s.executeCompute).E = s.E := rfl
@[simp] theorem State.executeCompute_M (s : State) : (s.executeCompute).M = s.M := rfl
@[simp] theorem State.executeCompute_W (s : State) : (s.executeCompute).W = s.W := rfl
@[simp] theorem State.executeCompute_fOut (s : State) : (s.executeCompute).fOut = s.fOut := rfl
@[simp] theorem State.executeCompute_dOut (s : State) : (s.executeCompute).dOut = s.dOut := rfl
@[simp] theorem State.executeCompute_eOut (s : State) : (s.executeCompute).eOut = execOut s.E s.cc := rfl
@[simp] theorem State.executeCompute_mOut (s : State) : (s.executeCompute).mOut = s.mOut := rfl
@[simp] theorem State.executeCompute_mem (s : State) : (s.executeCompute).mem = s.mem := rfl
@[simp] theorem State.executeCompute_log (s : State) : (s.executeCompute).log = s.log := rfl
@[simp] theorem State.executeCompute_cfg (s : State) : (s.executeCompute).cfg = s.cfg := rfl
@[simp] theorem State.executeCompute_view (s : State) : (s.executeCompute).view = s.view := rfl
@[simp] theorem State.executeCompute_freeIndex (s : State) : (s.executeCompute).freeIndex = s.freeIndex := rfl

@[simp] theorem State.decodeCompute_regs (s : State) : (s.decodeCompute).regs = s.regs := rfl
@[simp] theorem State.decodeCompute_cc (s : State) : (s.decodeCompute).cc = s.cc := rfl
@[simp] theorem State.decodeCompute_stat (s : State) : (s.decodeCompute).stat = s.stat := rfl
@[simp] theorem State.decodeCompute_cycle (s : State) : (s.decodeCompute).cycle = s.cycle := rfl
@[simp] theorem State.decodeCompute_halted (s : State) : (s.decodeCompute).halted = s.halted := rfl
@[simp] theorem State.decodeCompute_maxCycles (s : State) : (s.decodeCompute).maxCycles = s.maxCycles := rfl
@[simp] theorem State.decodeCompute_F (s : State) : (s.decodeCompute).F = s.F := rfl
@[simp] theorem State.decodeCompute_D (s : State) : (s.decodeCompute).D = s.D := rfl
@[simp] theorem State.decodeCompute_E (s : State) : (s.decodeCompute).E = s.E := rfl
@[simp] theorem State.decodeCompute_M (s : State) : (s.decodeCompute).M = s.M := rfl
@[simp] theorem State.decodeCompute_W (s : State) : (s.decodeCompute).W = s.W := rfl
@[simp] theorem State.decodeCompute_fOut (s : State) : (s.decodeCompute).fOut = s.fOut := rfl
@[simp] theorem State.decodeCompute_eOut (s : State) : (s.decodeCompute).eOut = s.eOut := rfl
@[simp] theorem State.decodeCompute_mOut (s : State) : (s.decodeCompute).mOut = s.mOut := rfl
@[simp] theorem State.decodeCompute_mem (s : State) : (s.decodeCompute).mem = s.mem := rfl
@[simp] theorem State.decodeCompute_log (s : State) : (s.decodeCompute).log = s.log := rfl
@[simp] theorem State.decodeCompute_cfg (s : State) : (s.decodeCompute).cfg = s.cfg := rfl
@[simp] theorem State.decodeCompute_view (s : State) : (s.decodeCompute).view = s.view := rfl
@[simp] theorem State.decodeCompute_freeIndex (s : State) : (s.decodeCompute).freeIndex = s.freeIndex := rfl

@[simp] theorem State.fetchCompute_regs (s : State) : (s.fetchCompute).regs = s.regs := rfl
@[simp] theorem State.fetchCompute_cc (s : State) : (s.fetchCompute).cc = s.cc := rfl
@[simp] theorem State.fetchCompute_stat (s : State) : (s.fetchCompute).stat = s.stat := rfl
@[simp] theorem State.fetchCompute_cycle (s : State) : (s.fetchCompute).cycle = s.cycle := rfl
@[simp] theorem State.fetchCompute_halted (s : State) : (s.fetchCompute).halted = s.halted := rfl
@[simp] theorem State.fetchCompute_maxCycles (s : State) : (s.fetchCompute).maxCycles = s.maxCycles := rfl
@[simp] theorem State.fetchCompute_F (s : State) : (s.fetchCompute).F = s.F := rfl
@[simp] theorem State.fetchCompute_D (s : State) : (s.fetchCompute).D = s.D := rfl
@[simp] theorem State.fetchCompute_E (s : State) : (s.fetchCompute).E = s.E := rfl
@[simp] theorem State.fetchCompute_M (s : State) : (s.fetchCompute).M = s.M := rfl
@[simp] theorem State.fetchCompute_W (s : State) : (s.fetchCompute).W = s.W := rfl
@[simp] theorem State.fetchCompute_fOut (s : State) : (s.fetchCompute).fOut = fetchAt s.mem.image s.fetchPC := rfl
@[simp] theorem State.fetchCompute_dOut (s : State) : (s.fetchCompute).dOut = s.dOut := rfl
@[simp] theorem State.fetchCompute_eOut (s : State) : (s.fetchCompute).eOut = s.eOut := rfl
@[simp] theorem State.fetchCompute_mOut (s : State) : (s.fetchCompute).mOut = s.mOut := rfl
@[simp] theorem State.fetchCompute_mem (s : State) : (s.fetchCompute).mem = s.mem := rfl
@[simp] theorem State.fetchCompute_log (s : State) : (s.fetchCompute).log = s.log := rfl
@[simp] theorem State.fetchCompute_cfg (s : State) : (s.fetchCompute).cfg = s.cfg := rfl
@[simp] theorem State.fetchCompute_view (s : State) : (s.fetchCompute).view = s.view := rfl
@[simp] theorem State.fetchCompute_freeIndex (s : State) : (s.fetchCompute).freeIndex = s.freeIndex := rfl

/-! ## The end of a cycle -/

@[simp] theorem State.endOfCycle_regs (s : State) (rf : RegFile) (cc : CC) : (s.endOfCycle rf cc).regs = s.regs := rfl
@[simp] theorem State.endOfCycle_cc (s : State) (rf : RegFile) (cc : CC) : (s.endOfCycle rf cc).cc = s.cc := rfl
@[simp] theorem State.endOfCycle_stat (s : State) (rf : RegFile) (cc : CC) : (s.endOfCycle rf cc).stat = if s.W.stat = .bubble then s.stat else s.W.stat := rfl
@[simp] theorem State.endOfCycle_cycle (s : State) (rf : RegFile) (cc : CC) : (s.endOfCycle rf cc).cycle = s.cycle + 1 := rfl
@[simp] theorem State.endOfCycle_halted (s : State) (rf : RegFile) (cc : CC) : (s.endOfCycle rf cc).halted = ((s.halted || s.W.stat.faulty) || decide (s.maxCycles ≤ s.cycle + 1)) := rfl
@[simp] theorem State.endOfCycle_maxCycles (s : State) (rf : RegFile) (cc : CC) : (s.endOfCycle rf cc).maxCycles = s.maxCycles := rfl
@[simp] theorem State.endOfCycle_F (s : State) (rf : RegFile) (cc : CC) : (s.endOfCycle rf cc).F = s.F := rfl
@[simp] theorem State.endOfCycle_D (s : State) (rf : RegFile) (cc : CC) : (s.endOfCycle rf cc).D = s.D := rfl
@[simp] theorem State.endOfCycle_E (s : State) (rf : RegFile) (cc : CC) : (s.endOfCycle rf cc).E = s.E := rfl
@[simp] theorem State.endOfCycle_M (s : State) (rf : RegFile) (cc : CC) : (s.endOfCycle rf cc).M = s.M := rfl
@[simp] theorem State.endOfCycle_W (s : State) (rf : RegFile) (cc : CC) : (s.endOfCycle rf cc).W = s.W := rfl
@[simp] theorem State.endOfCycle_fOut (s : State) (rf : RegFile) (cc : CC) : (s.endOfCycle rf cc).fOut = s.fOut := rfl
@[simp] theorem State.endOfCycle_dOut (s : State) (rf : RegFile) (cc : CC) : (s.endOfCycle rf cc).dOut = s.dOut := rfl
@[simp] theorem State.endOfCycle_eOut (s : State) (rf : RegFile) (cc : CC) : (s.endOfCycle rf cc).eOut = s.eOut := rfl
@[simp] theorem State.endOfCycle_mOut (s : State) (rf : RegFile) (cc : CC) : (s.endOfCycle rf cc).mOut = s.mOut := rfl
@[simp] theorem State.endOfCycle_mem (s : State) (rf : RegFile) (cc : CC) : (s.endOfCycle rf cc).mem = s.mem := rfl
@[simp] theorem State.endOfCycle_log (s : State) (rf : RegFile) (cc : CC) : (s.endOfCycle rf cc).log = s.log ++ [s.logEntry rf cc] := rfl
@[simp] theorem State.endOfCycle_cfg (s : State) (rf : RegFile) (cc : CC) : (s.endOfCycle rf cc).cfg = s.cfg := rfl
@[simp] theorem State.endOfCycle_view (s : State) (rf : RegFile) (cc : CC) : (s.endOfCycle rf cc).view = s.view := rfl
@[simp] theorem State.endOfCycle_freeIndex (s : State) (rf : RegFile) (cc : CC) : (s.endOfCycle rf cc).freeIndex = s.freeIndex := rfl

/-! ## The host -/

@[simp] theorem State.configure_regs (s : State) (n : Nat) : (s.configure n).regs = s.regs := rfl
@[simp] theorem State.configure_cc (s : State) (n : Nat) : (s.configure n).cc = s.cc := rfl
@[simp] theorem State.configure_stat (s : State) (n : Nat) : (s.configure n).stat = s.stat := rfl
@[simp] theorem State.configure_cycle (s : State) (n : Nat) : (s.configure n).cycle = s.cycle := rfl
@[simp] theorem State.configure_halted (s : State) (n : Nat) : (s.configure n).halted = s.halted := rfl
@[simp] theorem State.configure_maxCycles (s : State) (n : Nat) : (s.configure n).maxCycles = n := rfl
@[simp] theorem State.configure_F (s : State) (n : Nat) : (s.configure n).F = s.F := rfl
@[simp] theorem State.configure_D (s : State) (n : Nat) : (s.configure n).D = s.D := rfl
@[simp] theorem State.configure_E (s : State) (n : Nat) : (s.configure n).E = s.E := rfl
@[simp] theorem State.configure_M (s : State) (n : Nat) : (s.configure n).M = s.M := rfl
@[simp] theorem State.configure_W (s : State) (n : Nat) : (s.configure n).W = s.W := rfl
@[simp] theorem State.configure_fOut (s : State) (n : Nat) : (s.configure n).fOut = s.fOut := rfl
@[simp] theorem State.configure_dOut (s : State) (n : Nat) : (s.configure n).dOut = s.dOut := rfl
@[simp] theorem State.configure_eOut (s : State) (n : Nat) : (s.configure n).eOut = s.eOut := rfl
@[simp] theorem State.configure_mOut (s : State) (n : Nat) : (s.configure n).mOut = s.mOut := rfl
@[simp] theorem State.configure_mem (s : State) (n : Nat) : (s.configure n).mem = s.mem := rfl
@[simp] theorem State.configure_log (s : State) (n : Nat) : (s.configure n).log = s.log := rfl
@[simp] theorem State.configure_cfg (s : State) (n : Nat) : (s.configure n).cfg = s.cfg := rfl
@[simp] theorem State.configure_view (s : State) (n : Nat) : (s.configure n).view = s.view := rfl
@[simp] theorem State.configure_freeIndex (s : State) (n : Nat) : (s.configure n).freeIndex = s.freeIndex := rfl

end Sys2Proof.Machine
end

