-- ==== Sys2Proof/Laws/Ops.lean ====
section
/-! SUPPORT. What the shared operations of the meanings can do. -/

namespace Sys2Proof.Machine

@[simp] theorem State.commit_ok (s : State) (dE : RegId) (vE : Word) (dM : RegId) (vM : Word) :
    s.commit .ok dE vE dM vM = (s.writeReg dE vE).writeReg dM vM := rfl

@[simp] theorem State.commit_bubble (s : State) (dE : RegId) (vE : Word) (dM : RegId) (vM : Word) :
    s.commit .bubble dE vE dM vM = s := rfl

/-- Under FAULT_WB = suppress a stopping status writes nothing. -/
theorem State.commit_suppress (s : State) (st : Status) (dE : RegId) (vE : Word) (dM : RegId) (vM : Word)
    (h : s.cfg.faultWB = .suppress) (hst : st.faulty = true) : s.commit st dE vE dM vM = s := by
  unfold State.commit
  rw [if_neg (by rintro rfl; simp [Status.faulty] at hst), if_pos hst, h]

/-- No write-back touches a register that is no destination. -/
theorem State.commit_get (s : State) (st : Status) (dE : RegId) (vE : Word) (dM : RegId) (vM : Word) (r : Reg)
    (hE : dE ≠ some r) (hM : dM ≠ some r) : (s.commit st dE vE dM vM).regs.get r = s.regs.get r := by
  unfold State.commit
  split
  · simp [hE, hM]
  · split
    · split <;> simp [hE, hM]
    · rfl

/-- The whole effect of a write-back on the state: registers and the free index. -/
theorem State.commit_eq (s : State) (st : Status) (dE : RegId) (vE : Word) (dM : RegId) (vM : Word) :
    s.commit st dE vE dM vM =
      { s with
        regs := (s.commit st dE vE dM vM).regs
        freeIndex := (s.commit st dE vE dM vM).freeIndex } := by
  unfold State.commit
  split
  · rfl
  · split
    · split <;> rfl
    · rfl

@[simp] theorem State.retireTo_regs (s : State) (pc : Word) : (s.retireTo pc).regs = s.regs := rfl
@[simp] theorem State.retireTo_cc (s : State) (pc : Word) : (s.retireTo pc).cc = s.cc := rfl
@[simp] theorem State.retireTo_mem (s : State) (pc : Word) : (s.retireTo pc).mem = s.mem := rfl
@[simp] theorem State.retireTo_seqPC (s : State) (pc : Word) : (s.retireTo pc).seqPC = pc := rfl
@[simp] theorem State.retireTo_stat (s : State) (pc : Word) : (s.retireTo pc).stat = .ok := rfl
@[simp] theorem State.retireTo_halted (s : State) (pc : Word) : (s.retireTo pc).halted = s.halted := by
  simp [State.retireTo, Status.faulty]
@[simp] theorem State.retireTo_freeIndex (s : State) (pc : Word) : (s.retireTo pc).freeIndex = s.freeIndex := rfl

/-- A meaning behind a used source has a next state exactly when the source is a register and the rest has one. -/
theorem usingSource_next {c : ICode} {r : RegId} {o : Outcome} {t : State} :
    usingSource c r o = .next t ↔ r ≠ none ∧ o = .next t := by
  cases r <;> simp [usingSource]

theorem usingSources_next {c : ICode} {a b : RegId} {o : Outcome} {t : State} :
    usingSources c a b o = .next t ↔ a ≠ none ∧ b ≠ none ∧ o = .next t := by
  simp [usingSources, usingSource_next]

@[simp] theorem usingSource_some (c : ICode) (r : Reg) (o : Outcome) : usingSource c (some r) o = o := rfl

@[simp] theorem usingSource_none (c : ICode) (o : Outcome) : usingSource c none o = .refused (.noneSource c) := rfl

/-- An access that succeeds retires with its results. -/
@[simp] theorem State.retireAccess_true (s : State) (dE : RegId) (vE : Word) (dM : RegId) (vM pc : Word) :
    s.retireAccess true dE vE dM vM pc = ((s.writeReg dE vE).writeReg dM vM).retireTo pc := rfl

/-- An access that fails takes AddressError. -/
@[simp] theorem State.retireAccess_false (s : State) (dE : RegId) (vE : Word) (dM : RegId) (vM pc : Word) :
    s.retireAccess false dE vE dM vM pc = (s.commit .addressError dE vE dM vM).takeStatus .addressError := rfl

/-- What a retirement leaves alone, whether the access succeeds or not. -/
theorem State.retireAccess_frame (s : State) (ok : Bool) (dE : RegId) (vE : Word) (dM : RegId) (vM pc : Word) :
    (s.retireAccess ok dE vE dM vM pc).cc = s.cc ∧ (s.retireAccess ok dE vE dM vM pc).mem = s.mem ∧
      ∀ r, dE ≠ some r → dM ≠ some r → (s.retireAccess ok dE vE dM vM pc).regs.get r = s.regs.get r := by
  cases ok
  · exact ⟨by simp, by simp, fun r hE hM => by simpa using State.commit_get s .addressError dE vE dM vM r hE hM⟩
  · exact ⟨rfl, rfl, fun r hE hM => by simp [hE, hM]⟩

end Sys2Proof.Machine
end

