-- ==== Sys2Proof/Laws/Cycle.lean ====
section
/-! SUPPORT. Everything a clock cycle can do, and everything a step can do, said once. -/

namespace Sys2Proof.Machine

/-- The memory computation: a read, a write, or neither. -/
theorem State.memoryCompute_cases (s : State) :
    (s.M.stat = .ok ∧ memReads s.M.icode = true ∧
      s.memoryCompute.mem = (s.mem.read (memAddr s.M)).mem ∧
      s.memoryCompute.mOut = memoryOut s.M (s.mem.read (memAddr s.M)).ok (s.mem.read (memAddr s.M)).value) ∨
    (s.M.stat = .ok ∧ memReads s.M.icode = false ∧ memWrites s.M.icode = true ∧
      s.memoryCompute.mem = (s.mem.write (memAddr s.M) s.M.valA).mem ∧
      s.memoryCompute.mOut = memoryOut s.M (s.mem.write (memAddr s.M) s.M.valA).ok 0#32) ∨
    ((s.M.stat ≠ .ok ∨ (memReads s.M.icode = false ∧ memWrites s.M.icode = false)) ∧
      s.memoryCompute.mem = s.mem ∧ s.memoryCompute.mOut = memoryOut s.M true 0#32) := by
  unfold State.memoryCompute
  by_cases hok : s.M.stat = .ok
  · cases hr : memReads s.M.icode
    · cases hw : memWrites s.M.icode <;> simp [hok]
    · simp [hok]
  · simp [hok]

@[simp] theorem State.memoryCompute_image (s : State) : s.memoryCompute.mem.image = s.mem.image := by
  rcases s.memoryCompute_cases with ⟨_, _, h, _⟩ | ⟨_, _, _, h, _⟩ | ⟨_, h, _⟩ <;> rw [h] <;> simp

/-- No opcode both reads and writes data memory. -/
theorem memReads_of_memWrites (c : ICode) (h : memWrites c = true) : memReads c = false := by
  revert h; cases c <;> decide

/-- The state after a clock cycle, field by field, from the state before it. -/
structure CycleOf (s t : State) : Prop where
  notRefused : (s.backEnd s.hazardDecisions).executeRefusal = none
  W : t.W = s.mOut
  M : t.M = if s.drain then MReg.bubble else s.eOut
  E : t.E = if s.mispredict || s.loadUse || s.drain then EReg.bubble else s.dOut
  D : t.D = if s.loadUse then s.D else if s.mispredict || s.retHazard || s.drain then DReg.bubble else s.fOut.toD
  F : t.F = if s.loadUse || s.retHazard then s.F
    else if s.drain then ⟨.bubble, s.fOut.predPC⟩ else ⟨.ok, s.fOut.predPC⟩
  regs : t.regs = (s.commit s.mOut.stat s.mOut.dstE s.mOut.valE s.mOut.dstM s.mOut.valM).regs
  freeIndex : t.freeIndex = (s.commit s.mOut.stat s.mOut.dstE s.mOut.valE s.mOut.dstM s.mOut.valM).freeIndex
  memory :
    (t.M.stat = .ok ∧ memReads t.M.icode = true ∧ t.mem = (s.mem.read (memAddr t.M)).mem ∧
      t.mOut = memoryOut t.M (s.mem.read (memAddr t.M)).ok (s.mem.read (memAddr t.M)).value) ∨
    (t.M.stat = .ok ∧ memReads t.M.icode = false ∧ memWrites t.M.icode = true ∧
      t.mem = (s.mem.write (memAddr t.M) t.M.valA).mem ∧
      t.mOut = memoryOut t.M (s.mem.write (memAddr t.M) t.M.valA).ok 0#32) ∨
    ((t.M.stat ≠ .ok ∨ (memReads t.M.icode = false ∧ memWrites t.M.icode = false)) ∧ t.mem = s.mem ∧
      t.mOut = memoryOut t.M true 0#32)
  eOut : t.eOut = execOut t.E s.cc
  cc : t.cc = if t.E.icode = .iopl ∧ t.olderFault = false then flagsOf (execPre t.E) else s.cc
  dOut : t.dOut = ⟨t.D.stat, t.D.icode, t.D.ifun, t.D.valC, t.decodeValA, t.forward (srcBOf t.D),
    dstEOf t.D, dstMOf t.D, srcAOf t.D, srcBOf t.D⟩
  fOut : t.fOut = fetchAt s.mem.image t.fetchPC
  stat : t.stat = if t.W.stat = .bubble then s.stat else t.W.stat
  halted : t.halted = (s.halted || t.W.stat.faulty || decide (s.maxCycles ≤ s.cycle + 1))
  cycle : t.cycle = s.cycle + 1
  log : t.log = s.log ++ [⟨s.regs, s.cc, t.F, t.D, t.E, t.M, t.W⟩]
  cfg : t.cfg = s.cfg
  view : t.view = s.view
  maxCycles : t.maxCycles = s.maxCycles

theorem State.commit_regs_congr (s u : State) (st : Status) (dE : RegId) (vE : Word) (dM : RegId) (vM : Word)
    (hr : s.regs = u.regs) (hc : s.cfg = u.cfg) (hf : s.freeIndex = u.freeIndex) :
    (s.commit st dE vE dM vM).regs = (u.commit st dE vE dM vM).regs ∧
      (s.commit st dE vE dM vM).freeIndex = (u.commit st dE vE dM vM).freeIndex := by
  unfold State.commit
  rw [← hc]
  split
  · exact ⟨by simp [hr], hf⟩
  · split
    · split
      · exact ⟨hr, hf⟩
      · exact ⟨by simp [hr, hf], by simp [hf]⟩
    · exact ⟨hr, hf⟩

@[simp] theorem State.hazardDecisions_W (s : State) : s.hazardDecisions.W = .latch := rfl

theorem State.latchM_M (s : State) (m : LatchMode) :
    (s.latchM m).M = match m with | .stall => s.M | .bubble => MReg.bubble | .latch => s.eOut := by
  cases m <;> rfl

theorem State.latchE_E (s : State) (m : LatchMode) :
    (s.latchE m).E = match m with | .stall => s.E | .bubble => EReg.bubble | .latch => s.dOut := by
  cases m <;> rfl

theorem State.latchD_D (s : State) (m : LatchMode) :
    (s.latchD m).D = match m with | .stall => s.D | .bubble => DReg.bubble | .latch => s.fOut.toD := by
  cases m <;> rfl

theorem State.latchF_F (s : State) (m : LatchMode) :
    (s.latchF m).F =
      match m with | .stall => s.F | .bubble => ⟨.bubble, s.fOut.predPC⟩ | .latch => ⟨.ok, s.fOut.predPC⟩ := by
  cases m <;> rfl

/-- What a clock cycle does, when it is not refused. -/
theorem State.clock_cycleOf {s t : State} (h : s.clock = .next t) : CycleOf s t := by
  unfold State.clock at h
  cases hr : (s.backEnd s.hazardDecisions).executeRefusal with
  | some r => simp [hr] at h
  | none =>
    simp only [hr, Host.Outcome.next.injEq] at h
    subst h
    have hm := ((s.latchW .latch).writebackCompute.latchM s.hazardDecisions.M).memoryCompute_cases
    have hw := State.commit_regs_congr (s.latchW .latch) s s.mOut.stat s.mOut.dstE s.mOut.valE s.mOut.dstM
      s.mOut.valM (by simp) (by simp) (by simp)
    have hW : (s.latchW .latch).W = s.mOut := rfl
    refine ⟨hr, ?_, ?_, ?_, ?_, ?_, ?_, ?_, ?_, ?_, ?_, ?_, ?_, ?_, ?_, ?_, ?_, ?_, ?_, ?_⟩
    · simp [State.frontEnd, State.backEnd]
    · simp only [State.frontEnd, State.backEnd, State.endOfCycle_M, State.fetchCompute_M, State.latchF_M,
        State.decodeCompute_M, State.latchD_M, State.executeCompute_M, State.latchE_M, State.memoryCompute_M,
        State.latchM_M, State.hazardDecisions]
      cases s.drain <;> simp
    · simp only [State.frontEnd, State.backEnd, State.endOfCycle_E, State.fetchCompute_E, State.latchF_E,
        State.decodeCompute_E, State.latchD_E, State.executeCompute_E, State.latchE_E, State.hazardDecisions]
      cases s.mispredict || s.loadUse || s.drain <;> simp
    · simp only [State.frontEnd, State.backEnd, State.endOfCycle_D, State.fetchCompute_D, State.latchF_D,
        State.decodeCompute_D, State.latchD_D, State.hazardDecisions]
      cases s.loadUse <;> cases s.mispredict || s.retHazard || s.drain <;> simp
    · simp only [State.frontEnd, State.backEnd, State.endOfCycle_F, State.fetchCompute_F, State.latchF_F,
        State.hazardDecisions]
      cases s.loadUse || s.retHazard <;> cases s.drain <;> simp
    · simpa [State.frontEnd, State.backEnd, State.writebackCompute, hW] using hw.1
    · simpa [State.frontEnd, State.backEnd, State.writebackCompute, hW] using hw.2
    · simpa [State.frontEnd, State.backEnd] using hm
    · simp [State.frontEnd, State.backEnd]
    · simp [State.frontEnd, State.backEnd, State.setsCC, State.olderFault]
    · simp [State.frontEnd, State.decodeCompute, State.decodeValA, State.forward]
    · simp [State.frontEnd, State.backEnd, State.fetchPC]
    · simp [State.frontEnd, State.backEnd]
    · simp [State.frontEnd, State.backEnd]
    · simp [State.frontEnd, State.backEnd]
    · simp [State.frontEnd, State.backEnd, State.logEntry]
    · simp [State.frontEnd, State.backEnd]
    · simp [State.frontEnd, State.backEnd]
    · simp [State.frontEnd, State.backEnd]

/-- A cycle has a next state exactly when it is not refused. -/
theorem State.clock_next (s : State) (h : (s.backEnd s.hazardDecisions).executeRefusal = none) :
    ∃ t, s.clock = .next t ∧ CycleOf s t := by
  have e : s.clock = .next (((s.backEnd s.hazardDecisions).frontEnd s.hazardDecisions).endOfCycle s.regs s.cc) := by
    unfold State.clock
    simp only [h]
  exact ⟨_, e, State.clock_cycleOf e⟩

/-- Everything an instruction can do when it has a next state: it stops as a halt, or it retires, with at most one data
access, the flags written only by an arithmetic instruction, and results only in its destinations. -/
inductive ExecOf (i : Instr) (s t : State) : Prop where
  | halts (ifun : Nibble) (hi : i = .halt ifun) (ht : t = (s.commit .halt none 0#32 none 0#32).takeStatus .halt)
  | retires (cc : CC) (m : Memory) (ok : Bool) (dE : RegId) (vE : Word) (dM : RegId) (vM pc : Word)
      (flags : writesFlags i = false → cc = s.cc)
      (dstE : ∀ r, dE = some r → some r ∈ destinations i) (dstM : ∀ r, dM = some r → some r ∈ destinations i)
      (access :
        (∃ a, loadAddr i s = some a ∧ storeAddr i s = none ∧ ok = (s.mem.read a).ok ∧ m = (s.mem.read a).mem) ∨
        (∃ a v, storeAddr i s = some a ∧ loadAddr i s = none ∧ ok = (s.mem.write a v).ok ∧
          m = (s.mem.write a v).mem) ∨
        (loadAddr i s = none ∧ storeAddr i s = none ∧ ok = true ∧ m = s.mem))
      (accessFlags : ok = false → cc = s.cc)
      (ht : t = ((s.setCC cc).setMem m).retireAccess ok dE vE dM vM pc)

theorem State.moveWhen_execOf (i : Instr) (c : Cond) (rA rB : RegId) (s t : State)
    (hd : destinations i = [rB]) (hl : loadAddr i s = none) (hs : storeAddr i s = none)
    (h : s.moveWhen c rA rB = .next t) : ExecOf i s t := by
  simp only [State.moveWhen, usingSource_next, Host.Outcome.next.injEq] at h
  refine .retires s.cc s.mem true _ _ _ _ _ (fun _ => rfl) ?_ (by simp) (.inr (.inr ⟨hl, hs, rfl, rfl⟩)) (fun _ => rfl)
    h.2.symm
  intro r hr
  rw [hd]
  split_ifs at hr
  simp [hr]

theorem State.jumpWhen_execOf (i : Instr) (c : Cond) (dest : Word) (s t : State)
    (hl : loadAddr i s = none) (hs : storeAddr i s = none)
    (h : s.jumpWhen c dest = .next t) : ExecOf i s t := by
  simp only [State.jumpWhen, Host.Outcome.next.injEq] at h
  exact .retires s.cc s.mem true none 0#32 none 0#32 _ (fun _ => rfl) (by simp) (by simp)
    (.inr (.inr ⟨hl, hs, rfl, rfl⟩)) (fun _ => rfl) h.symm

theorem State.aluOp_execOf (i : Instr) (f : AluFun) (rA rB : RegId) (s t : State)
    (hd : destinations i = [rB]) (hl : loadAddr i s = none) (hs : storeAddr i s = none)
    (hw : writesFlags i = true) (h : s.aluOp f rA rB = .next t) : ExecOf i s t := by
  simp only [State.aluOp, usingSources_next, Host.Outcome.next.injEq] at h
  exact .retires (flagsOf (aluPre f (s.readReg rB) (s.readReg rA))) s.mem true rB
    (wrap32 (aluPre f (s.readReg rB) (s.readReg rA))) none 0#32 (s.seqPC + 2#32) (by simp [hw])
    (by rintro r rfl; simp [hd]) (by simp) (.inr (.inr ⟨hl, hs, rfl, rfl⟩)) (by simp) h.2.2.symm

theorem exec_cases (i : Instr) (s t : State) (h : exec i s = .next t) : ExecOf i s t := by
  cases i with
  | halt ifun =>
    simp only [exec, execHalt, Host.Outcome.next.injEq] at h
    exact .halts ifun rfl h.symm
  | nop ifun =>
    simp only [exec, execNop, Host.Outcome.next.injEq] at h
    exact .retires s.cc s.mem true none 0#32 none 0#32 _ (fun _ => rfl) (by simp) (by simp)
      (.inr (.inr ⟨rfl, rfl, rfl, rfl⟩)) (fun _ => rfl) h.symm
  | rrmovl rA rB => exact State.moveWhen_execOf _ _ rA rB s t rfl rfl rfl h
  | cmovle rA rB => exact State.moveWhen_execOf _ _ rA rB s t rfl rfl rfl h
  | cmovl rA rB => exact State.moveWhen_execOf _ _ rA rB s t rfl rfl rfl h
  | cmove rA rB => exact State.moveWhen_execOf _ _ rA rB s t rfl rfl rfl h
  | cmovne rA rB => exact State.moveWhen_execOf _ _ rA rB s t rfl rfl rfl h
  | cmovge rA rB => exact State.moveWhen_execOf _ _ rA rB s t rfl rfl rfl h
  | cmovg rA rB => exact State.moveWhen_execOf _ _ rA rB s t rfl rfl rfl h
  | irmovl ifun rA rB v =>
    simp only [exec, execIrmovl, Host.Outcome.next.injEq] at h
    exact .retires s.cc s.mem true rB _ none 0#32 _ (fun _ => rfl) (by rintro r rfl; simp [destinations]) (by simp)
      (.inr (.inr ⟨rfl, rfl, rfl, rfl⟩)) (fun _ => rfl) h.symm
  | rmmovl ifun rA rB d =>
    simp only [exec, execRmmovl, usingSources_next, Host.Outcome.next.injEq] at h
    exact .retires s.cc _ _ none 0#32 none 0#32 _ (fun _ => rfl) (by simp) (by simp)
      (.inr (.inl ⟨_, _, rfl, rfl, rfl, rfl⟩)) (fun _ => rfl) h.2.2.symm
  | mrmovl ifun rA rB d =>
    simp only [exec, execMrmovl, usingSource_next, Host.Outcome.next.injEq] at h
    exact .retires s.cc _ _ none 0#32 rA _ _ (fun _ => rfl) (by simp) (by rintro r rfl; simp [destinations])
      (.inl ⟨_, rfl, rfl, rfl, rfl⟩) (fun _ => rfl) h.2.symm
  | addl rA rB => exact State.aluOp_execOf _ _ rA rB s t rfl rfl rfl rfl h
  | subl rA rB => exact State.aluOp_execOf _ _ rA rB s t rfl rfl rfl rfl h
  | andl rA rB => exact State.aluOp_execOf _ _ rA rB s t rfl rfl rfl rfl h
  | xorl rA rB => exact State.aluOp_execOf _ _ rA rB s t rfl rfl rfl rfl h
  | jmp dest => exact State.jumpWhen_execOf _ _ dest s t rfl rfl h
  | jle dest => exact State.jumpWhen_execOf _ _ dest s t rfl rfl h
  | jl dest => exact State.jumpWhen_execOf _ _ dest s t rfl rfl h
  | je dest => exact State.jumpWhen_execOf _ _ dest s t rfl rfl h
  | jne dest => exact State.jumpWhen_execOf _ _ dest s t rfl rfl h
  | jge dest => exact State.jumpWhen_execOf _ _ dest s t rfl rfl h
  | jg dest => exact State.jumpWhen_execOf _ _ dest s t rfl rfl h
  | call ifun dest =>
    simp only [exec, execCall, Host.Outcome.next.injEq] at h
    exact .retires s.cc _ _ espId _ none 0#32 _ (fun _ => rfl) (by rintro r hr; simp [destinations, ← hr]) (by simp)
      (.inr (.inl ⟨_, _, rfl, rfl, rfl, rfl⟩)) (fun _ => rfl) h.symm
  | ret ifun =>
    simp only [exec, execRet, Host.Outcome.next.injEq] at h
    exact .retires s.cc _ _ espId _ none 0#32 _ (fun _ => rfl) (by rintro r hr; simp [destinations, ← hr]) (by simp)
      (.inl ⟨_, rfl, rfl, rfl, rfl⟩) (fun _ => rfl) h.symm
  | pushl ifun rA rB =>
    simp only [exec, execPushl, usingSource_next, Host.Outcome.next.injEq] at h
    exact .retires s.cc _ _ espId _ none 0#32 _ (fun _ => rfl) (by rintro r hr; simp [destinations, ← hr]) (by simp)
      (.inr (.inl ⟨_, _, rfl, rfl, rfl, rfl⟩)) (fun _ => rfl) h.2.symm
  | popl ifun rA rB =>
    simp only [exec, execPopl, Host.Outcome.next.injEq] at h
    exact .retires s.cc _ _ espId _ rA _ _ (fun _ => rfl) (by rintro r hr; simp [destinations, ← hr])
      (by rintro r rfl; simp [destinations]) (.inl ⟨_, rfl, rfl, rfl, rfl⟩) (fun _ => rfl) h.symm

/-- Everything a step can do when it has a next state. -/
inductive StepOf (s t : State) : Prop where
  | ended (stopped : s.halted = true) (same : t = s)
  | cycle (running : s.halted = false) (view : s.view = .clockCycle) (cycle : CycleOf s t)
  | runs (running : s.halted = false) (view : s.view = .instruction) (i : Instr) (fetched : s.fetchInstr = .instr i)
      (run : exec i s = .next t) (what : ExecOf i s t)
  | stops (running : s.halted = false) (view : s.view = .instruction) (st : Status)
      (fetched : s.fetchInstr = .stop st) (status : st = .addressError ∨ st = .invalidInstruction)
      (stop : t = s.stopAtFetch st)

theorem State.fetchInstr_stop (s : State) (st : Status) (h : s.fetchInstr = .stop st) :
    st = .addressError ∨ st = .invalidInstruction := by
  unfold State.fetchInstr at h
  split_ifs at h
  · simp_all
  · split at h <;> simp_all

theorem step_cases (s t : State) (h : step s = .next t) : StepOf s t := by
  unfold step at h
  cases hh : s.halted
  · cases hv : s.view
    · simp only [hv, State.stepOneCycle, hh] at h
      exact .cycle hh hv (State.clock_cycleOf h)
    · simp only [hv, State.stepInstruction, hh] at h
      cases hf : s.fetchInstr with
      | instr i =>
        simp only [hf] at h
        exact .runs hh hv i hf h (exec_cases i s t h)
      | stop st =>
        simp [hf] at h
        exact .stops hh hv st hf (s.fetchInstr_stop st hf) h.symm
      | undefined c f => simp [hf] at h
  · refine .ended hh ?_
    cases hv : s.view
    · simp only [hv, State.stepOneCycle, hh, Host.Outcome.next.injEq, if_true] at h
      exact h.symm
    · simp only [hv, State.stepInstruction, hh, Host.Outcome.next.injEq, if_true] at h
      exact h.symm

/-- What a step can do to memory: nothing, one read, or one write. -/
inductive MemoryOf (m n : Memory) : Prop where
  | same (h : n = m)
  | read (a : Word) (h : n = (m.read a).mem)
  | write (a v : Word) (h : n = (m.write a v).mem)

theorem ExecOf.memory {i : Instr} {s t : State} (h : ExecOf i s t) : MemoryOf s.mem t.mem := by
  cases h with
  | halts f hi ht => exact .same (by rw [ht]; simp)
  | retires cc m ok dE vE dM vM pc flags dstE dstM access accessFlags ht =>
    have hm : t.mem = m := by
      rw [ht]
      exact (((s.setCC cc).setMem m).retireAccess_frame ok dE vE dM vM pc).2.1
    rw [hm]
    rcases access with ⟨a, _, _, _, e⟩ | ⟨a, v, _, _, _, e⟩ | ⟨_, _, _, e⟩
    · exact .read a e
    · exact .write a v e
    · exact .same e

theorem step_memory {s t : State} (h : step s = .next t) : MemoryOf s.mem t.mem := by
  cases step_cases s t h with
  | ended _ same => exact .same (by rw [same])
  | cycle _ _ c =>
    rcases c.memory with e | e | e
    · exact .read _ e.2.2.1
    · exact .write _ _ e.2.2.2.1
    · exact .same e.2.1
  | runs _ _ i _ _ what => exact what.memory
  | stops _ _ st _ _ stop => exact .same (by rw [stop]; simp [State.stopAtFetch])

/-- One call of `stepOneCycle`. -/
theorem State.stepOneCycle_cases {s t : State} (h : s.stepOneCycle = .next t) :
    (s.halted = true ∧ t = s) ∨ (s.halted = false ∧ CycleOf s t) := by
  unfold State.stepOneCycle at h
  cases hh : s.halted
  · simp only [hh] at h
    exact .inr ⟨rfl, State.clock_cycleOf h⟩
  · simp only [hh, if_true, Host.Outcome.next.injEq] at h
    exact .inl ⟨rfl, h.symm⟩

/-- The first of several cycles, and the rest. -/
theorem State.runCycles_succ {s t : State} {n : Nat} (h : State.runCycles (n + 1) s = .next t) :
    ∃ u, s.stepOneCycle = .next u ∧ State.runCycles n u = .next t := by
  rw [State.runCycles] at h
  split at h
  · exact ⟨_, ‹_›, h⟩
  · simp at h
  · simp at h

@[simp] theorem retired_nil : retired [] = 0 := rfl

/-- A cycle's entry counts as a retirement unless it left a bubble in W. -/
@[simp] theorem retired_concat (log : List LogEntry) (e : LogEntry) :
    retired (log ++ [e]) = retired log + if e.W.stat = .bubble then 0 else 1 := by
  by_cases h : e.W.stat = .bubble <;> simp [retired, h]

/-- What a cycle does to the count of the retired instructions. -/
theorem CycleOf.retired_log {s t : State} (c : CycleOf s t) :
    retired t.log = retired s.log + if t.W.stat = .bubble then 0 else 1 := by
  rw [c.log, retired_concat]

/-- Two words at different addresses have different keys. -/
theorem toNat_ne_of_ne {a b : Word} (h : a ≠ b) : a.toNat ≠ b.toNat := fun e => h (BitVec.eq_of_toNat_eq e)

end Sys2Proof.Machine
end

