-- ==== Sys2Proof/Laws/PerInstr.lean ====
section
/-! SUPPORT. A fact about every instruction as syntax: the number of its bytes is that of its format
(30_encoding.md R153, R164). -/

namespace Sys2Proof.Laws.FormatLength

/-- The length of the format of each row of 30_encoding.md R164. -/
def formatLength : Instr → Nat
  | .halt _ => 1
  | .nop _ => 1
  | .rrmovl _ _ => 2
  | .cmovle _ _ => 2
  | .cmovl _ _ => 2
  | .cmove _ _ => 2
  | .cmovne _ _ => 2
  | .cmovge _ _ => 2
  | .cmovg _ _ => 2
  | .irmovl _ _ _ _ => 6
  | .rmmovl _ _ _ _ => 6
  | .mrmovl _ _ _ _ => 6
  | .addl _ _ => 2
  | .subl _ _ => 2
  | .andl _ _ => 2
  | .xorl _ _ => 2
  | .jmp _ => 5
  | .jle _ => 5
  | .jl _ => 5
  | .je _ => 5
  | .jne _ => 5
  | .jge _ => 5
  | .jg _ => 5
  | .call _ _ => 5
  | .ret _ => 1
  | .pushl _ _ _ => 2
  | .popl _ _ _ => 2

/-- The encoding of `i` has as many bytes as `i.length` says, and that is the length of its format. -/
def Statement (i : Instr) : Prop := (encode i).length = i.length ∧ i.length = formatLength i

theorem halt (ifun : Nibble) : Statement (.halt ifun) := ⟨rfl, rfl⟩
theorem nop (ifun : Nibble) : Statement (.nop ifun) := ⟨rfl, rfl⟩
theorem rrmovl (rA rB : RegId) : Statement (.rrmovl rA rB) := ⟨rfl, rfl⟩
theorem cmovle (rA rB : RegId) : Statement (.cmovle rA rB) := ⟨rfl, rfl⟩
theorem cmovl (rA rB : RegId) : Statement (.cmovl rA rB) := ⟨rfl, rfl⟩
theorem cmove (rA rB : RegId) : Statement (.cmove rA rB) := ⟨rfl, rfl⟩
theorem cmovne (rA rB : RegId) : Statement (.cmovne rA rB) := ⟨rfl, rfl⟩
theorem cmovge (rA rB : RegId) : Statement (.cmovge rA rB) := ⟨rfl, rfl⟩
theorem cmovg (rA rB : RegId) : Statement (.cmovg rA rB) := ⟨rfl, rfl⟩
theorem irmovl (ifun : Nibble) (rA rB : RegId) (v : Word) : Statement (.irmovl ifun rA rB v) := ⟨rfl, rfl⟩
theorem rmmovl (ifun : Nibble) (rA rB : RegId) (d : Word) : Statement (.rmmovl ifun rA rB d) := ⟨rfl, rfl⟩
theorem mrmovl (ifun : Nibble) (rA rB : RegId) (d : Word) : Statement (.mrmovl ifun rA rB d) := ⟨rfl, rfl⟩
theorem addl (rA rB : RegId) : Statement (.addl rA rB) := ⟨rfl, rfl⟩
theorem subl (rA rB : RegId) : Statement (.subl rA rB) := ⟨rfl, rfl⟩
theorem andl (rA rB : RegId) : Statement (.andl rA rB) := ⟨rfl, rfl⟩
theorem xorl (rA rB : RegId) : Statement (.xorl rA rB) := ⟨rfl, rfl⟩
theorem jmp (dest : Word) : Statement (.jmp dest) := ⟨rfl, rfl⟩
theorem jle (dest : Word) : Statement (.jle dest) := ⟨rfl, rfl⟩
theorem jl (dest : Word) : Statement (.jl dest) := ⟨rfl, rfl⟩
theorem je (dest : Word) : Statement (.je dest) := ⟨rfl, rfl⟩
theorem jne (dest : Word) : Statement (.jne dest) := ⟨rfl, rfl⟩
theorem jge (dest : Word) : Statement (.jge dest) := ⟨rfl, rfl⟩
theorem jg (dest : Word) : Statement (.jg dest) := ⟨rfl, rfl⟩
theorem call (ifun : Nibble) (dest : Word) : Statement (.call ifun dest) := ⟨rfl, rfl⟩
theorem ret (ifun : Nibble) : Statement (.ret ifun) := ⟨rfl, rfl⟩
theorem pushl (ifun : Nibble) (rA rB : RegId) : Statement (.pushl ifun rA rB) := ⟨rfl, rfl⟩
theorem popl (ifun : Nibble) (rA rB : RegId) : Statement (.popl ifun rA rB) := ⟨rfl, rfl⟩

end Sys2Proof.Laws.FormatLength
end

