-- ==== Sys2Proof/Tests/Slice0.lean ====
section
/-! SUPPORT. The model's own tests. Expected results are those of 95_test_vectors.md (the vector is named) or are worked
out by hand from the rule named; then a witness for the hypotheses of every statement that has some. -/

namespace Sys2Proof.Tests

open Sys2Proof.Machine

/-! ## Helpers -/

/-- The next state of an outcome, if it has one. -/
def nextOf : Outcome → Option State
  | .next s => some s
  | _ => none

/-- The refusal of an outcome, if it is one. -/
def refusalOf : Outcome → Option Refusal
  | .refused r => some r
  | _ => none

/-- The state after the load of an image, with chosen registers. -/
def withRegs (image : List Byte) (eax ecx ebx esp : Word) : State :=
  { State.reset.load image with regs := { RegFile.all 0#32 with eax := eax, ecx := ecx, ebx := ebx, esp := esp } }

/-- The same with chosen flags. -/
def withFlags (cc : CC) (eax ebx : Word) : State := (withRegs [] eax 0 ebx 0).setCC cc

/-- The same with one word in WMem. -/
def withWord (s : State) (a : Nat) (w : Word) : State := s.setMem { s.mem with wmem := [(a, w)] }

/-- The image of group V-M. -/
def imageM : List Byte := [0x78, 0x56, 0x34, 0x12, 0xff, 0xff, 0xff, 0xff]

/-- Memory with that image, nothing accessed yet. -/
def memM : Memory := ⟨imageM, [], []⟩

/-- What an OPl leaves in `%ebx` and the flags, with `a` in `%eax` and `b` in `%ebx`. -/
def aluResult (i : RegId → RegId → Instr) (a b : Word) : Option (Word × CC) :=
  (nextOf (exec (i (some .eax) (some .ebx)) (withFlags ⟨false, false, false⟩ a b))).map fun t => (t.regs.ebx, t.cc)

/-- What a move leaves in `%ebx`, with 1 in `%eax` and 9 in `%ebx`. -/
def moveResult (i : RegId → RegId → Instr) (cc : CC) : Option Word :=
  (nextOf (exec (i (some .eax) (some .ebx)) (withFlags cc 1 9))).map fun t => t.regs.ebx

/-- Where a jump to 0x100 goes from address 0. -/
def jumpResult (i : Word → Instr) (cc : CC) : Option Word :=
  (nextOf (exec (i 0x100) (withFlags cc 0 0))).map State.seqPC

/-- The image of program P1. -/
def imageP1 : List Byte :=
  [0x30, 0x80, 0x05, 0x00, 0x00, 0x00] ++ [0x30, 0x81, 0x0a, 0x00, 0x00, 0x00] ++ [0x60, 0x01, 0x00]

/-! ## WellFormed: one ill-formed term per check (30_encoding.md R174) -/

theorem test_ill_formed_rrmovl : (Instr.rrmovl none (some .ecx)).wellFormed = false := by decide
theorem test_ill_formed_cmovle : (Instr.cmovle none (some .ecx)).wellFormed = false := by decide
theorem test_ill_formed_cmovl : (Instr.cmovl none (some .ecx)).wellFormed = false := by decide
theorem test_ill_formed_cmove : (Instr.cmove none (some .ecx)).wellFormed = false := by decide
theorem test_ill_formed_cmovne : (Instr.cmovne none (some .ecx)).wellFormed = false := by decide
theorem test_ill_formed_cmovge : (Instr.cmovge none (some .ecx)).wellFormed = false := by decide
theorem test_ill_formed_cmovg : (Instr.cmovg none (some .ecx)).wellFormed = false := by decide
theorem test_ill_formed_rmmovl_data : (Instr.rmmovl 0 none (some .ecx) 0).wellFormed = false := by decide
theorem test_ill_formed_rmmovl_base : (Instr.rmmovl 0 (some .eax) none 0).wellFormed = false := by decide
theorem test_ill_formed_mrmovl : (Instr.mrmovl 0 (some .eax) none 0).wellFormed = false := by decide
theorem test_ill_formed_addl : (Instr.addl none (some .eax)).wellFormed = false := by decide
theorem test_ill_formed_subl : (Instr.subl (some .eax) none).wellFormed = false := by decide
theorem test_ill_formed_andl : (Instr.andl none none).wellFormed = false := by decide
theorem test_ill_formed_xorl : (Instr.xorl (some .eax) none).wellFormed = false := by decide
theorem test_ill_formed_pushl : (Instr.pushl 0 none none).wellFormed = false := by decide

/-- RNONE as a destination and in an unused field is admitted. -/
theorem test_well_formed_none_destinations :
    (Instr.rrmovl (some .eax) none).wellFormed = true ∧ (Instr.irmovl 0 none none 5).wellFormed = true ∧
      (Instr.mrmovl 0 none (some .eax) 0).wellFormed = true ∧ (Instr.popl 0 none none).wellFormed = true ∧
      (Instr.pushl 0 (some .eax) none).wellFormed = true := by decide

/-! ## Decoding: every row of 30_encoding.md R164, a word written out from it -/

theorem test_decode_halt : decode [0x05] = .ok (.halt 5, []) := by rfl
theorem test_decode_nop : decode [0x1f, 0x00] = .ok (.nop 15, [0x00]) := by rfl
theorem test_decode_rrmovl : decode [0x20, 0x03] = .ok (.rrmovl (some .eax) (some .ebx), []) := by rfl
theorem test_decode_cmovle : decode [0x21, 0x67] = .ok (.cmovle (some .esi) (some .edi), []) := by rfl
theorem test_decode_cmovl : decode [0x22, 0x12] = .ok (.cmovl (some .ecx) (some .edx), []) := by rfl
theorem test_decode_cmove : decode [0x23, 0x03] = .ok (.cmove (some .eax) (some .ebx), []) := by rfl
theorem test_decode_cmovne : decode [0x24, 0x38] = .ok (.cmovne (some .ebx) none, []) := by rfl
theorem test_decode_cmovge : decode [0x25, 0x54] = .ok (.cmovge (some .ebp) (some .esp), []) := by rfl
theorem test_decode_cmovg : decode [0x26, 0x45] = .ok (.cmovg (some .esp) (some .ebp), []) := by rfl
theorem test_decode_irmovl :
    decode [0x30, 0x82, 0x01, 0x02, 0x03, 0x84] = .ok (.irmovl 0 none (some .edx) 0x84030201, []) := by rfl
theorem test_decode_rmmovl :
    decode [0x40, 0x03, 0x08, 0x00, 0x00, 0x00] = .ok (.rmmovl 0 (some .eax) (some .ebx) 8, []) := by rfl
theorem test_decode_mrmovl :
    decode [0x50, 0x03, 0xfc, 0xff, 0xff, 0xff] = .ok (.mrmovl 0 (some .eax) (some .ebx) 0xfffffffc, []) := by rfl
theorem test_decode_addl : decode [0x60, 0x01] = .ok (.addl (some .eax) (some .ecx), []) := by rfl
theorem test_decode_subl : decode [0x61, 0x21] = .ok (.subl (some .edx) (some .ecx), []) := by rfl
theorem test_decode_andl : decode [0x62, 0x03] = .ok (.andl (some .eax) (some .ebx), []) := by rfl
theorem test_decode_xorl : decode [0x63, 0x30] = .ok (.xorl (some .ebx) (some .eax), []) := by rfl
theorem test_decode_jmp : decode [0x70, 0x78, 0x56, 0x34, 0x12] = .ok (.jmp 0x12345678, []) := by rfl
theorem test_decode_jle : decode [0x71, 0x00, 0x01, 0x00, 0x00] = .ok (.jle 0x100, []) := by rfl
theorem test_decode_jl : decode [0x72, 0x00, 0x01, 0x00, 0x00] = .ok (.jl 0x100, []) := by rfl
theorem test_decode_je : decode [0x73, 0x00, 0x01, 0x00, 0x00] = .ok (.je 0x100, []) := by rfl
theorem test_decode_jne : decode [0x74, 0x00, 0x01, 0x00, 0x00] = .ok (.jne 0x100, []) := by rfl
theorem test_decode_jge : decode [0x75, 0x00, 0x01, 0x00, 0x00] = .ok (.jge 0x100, []) := by rfl
theorem test_decode_jg : decode [0x76, 0x00, 0x01, 0x00, 0x00] = .ok (.jg 0x100, []) := by rfl
theorem test_decode_call : decode [0x83, 0x20, 0x00, 0x00, 0x00] = .ok (.call 3 0x20, []) := by rfl
theorem test_decode_ret : decode [0x90, 0x90] = .ok (.ret 0, [0x90]) := by rfl
theorem test_decode_pushl : decode [0xa0, 0x48] = .ok (.pushl 0 (some .esp) none, []) := by rfl
theorem test_decode_popl : decode [0xb0, 0x38] = .ok (.popl 0 (some .ebx) none, []) := by rfl

theorem test_decode_errors :
    decode [] = .error (.fields .noOpcodeByte) ∧ decode [0x60] = .error (.fields .noRegisterByte) ∧
      decode [0xb0, 0xf8] = .error (.fields .badRegisterId) ∧ decode [0x70, 0, 0, 0] = .error (.fields .noImmediate) ∧
      decode [0xc0] = .error (.invalidOpcode .invC) ∧ decode [0x27, 0x01] = .error (.undefinedFunction .irrmovl 7) := by
  refine ⟨?_, ?_, ?_, ?_, ?_, ?_⟩ <;> rfl

/-- Table words count bits from the first byte: 0x0160 is the bytes 60 01. -/
theorem test_table_word : decodeTableWord 16 0x0160 = some (.addl (some .eax) (some .ecx)) := by rfl

/-- A table word shorter than the instruction has zeros for its operand bytes. -/
theorem test_table_word_short : decodeTableWord 8 0x80 = some (.call 0 0) := by rfl

theorem test_step_runs_table_word :
    step (State.reset.withFetchWord 16 0x0160) =
      exec (.addl (some .eax) (some .ecx)) (State.reset.withFetchWord 16 0x0160) := by rfl

/-- From the end of the address space the word is placed at 0, and still runs next. -/
theorem test_step_runs_table_word_at_the_end :
    (nextOf (step ((State.reset.setSeqPC 0xffffffff#32).withFetchWord 8 0x10))).map State.seqPC = some 1 := by rfl

/-! ## Fetch: group V-E -/

theorem test_fetch_E9 : (fetchAt [0x30, 0xf0, 5, 0, 0, 0] 0).stat = .addressError := by rfl
theorem test_fetch_E12 : fetchAt [0x60, 0x01] 2 = ⟨2, .addressError, .inop, 0, none, none, 0, 3, 3⟩ := by rfl
theorem test_fetch_E14 : (fetchAt [] 0x7fffffff#32).valP = 0x80000000#32 := by rfl
theorem test_fetch_E15 : fetchAt [0x74, 0, 1, 0, 0] 0 = ⟨0, .ok, .ijxx, 4, none, none, 0x100, 5, 0x100⟩ := by rfl

/-! ## One step of each instruction -/

theorem test_halt : (nextOf (exec (.halt 5) (withRegs [] 1 2 3 4))).map (fun t => (t.stat, t.halted, t.regs.eax)) =
    some (.halt, true, 1) := by rfl
theorem test_nop : (nextOf (exec (.nop 15) (withRegs [] 1 2 3 4))).map (fun t => (t.stat, t.seqPC, t.regs.esp)) =
    some (.ok, 1, 4) := by rfl

/-- V1. -/
theorem test_rrmovl : (nextOf (exec (.rrmovl (some .eax) (some .ecx)) (withRegs [] 7 0 0 0))).map
    (fun t => (t.regs.ecx, t.seqPC)) = some (7, 2) := by rfl

/-- The table of group V-C, row by row of the flags ZF SF OF, for the six conditional moves. -/
theorem test_cmovle : [moveResult .cmovle ⟨false, true, true⟩, moveResult .cmovle ⟨true, true, true⟩] = [some 9, some 1] := by
  rfl
theorem test_cmovl : [moveResult .cmovl ⟨true, false, false⟩, moveResult .cmovl ⟨false, true, false⟩] = [some 9, some 1] := by
  rfl
theorem test_cmove : [moveResult .cmove ⟨false, true, true⟩, moveResult .cmove ⟨true, false, false⟩] = [some 9, some 1] := by
  rfl
theorem test_cmovne : [moveResult .cmovne ⟨true, false, false⟩, moveResult .cmovne ⟨false, false, true⟩] = [some 9, some 1] := by
  rfl
theorem test_cmovge : [moveResult .cmovge ⟨false, false, true⟩, moveResult .cmovge ⟨false, true, true⟩] = [some 9, some 1] := by
  rfl
theorem test_cmovg : [moveResult .cmovg ⟨true, false, false⟩, moveResult .cmovg ⟨false, true, true⟩] = [some 9, some 1] := by
  rfl

/-- V2, and RNONE as a destination. -/
theorem test_irmovl : (nextOf (exec (.irmovl 0 none (some .edx) 0xffffffff) (withRegs [] 0 0 0 0))).map
    (fun t => (t.regs.edx, t.seqPC)) = some (0xffffffff, 6) := by rfl
theorem test_irmovl_none : (nextOf (exec (.irmovl 0 none none 5) (withRegs [] 1 2 3 4))).map
    (fun t => t.regs) = some (withRegs [] 1 2 3 4).regs := by rfl

/-- V6, and the wrapped address of group V-M that is negative. -/
theorem test_rmmovl : (nextOf (exec (.rmmovl 0 (some .eax) (some .ebx) 8) (withRegs [] 5 0 0x40 0))).map
    (fun t => (t.mem.wmem, t.mem.readSet, t.stat)) = some ([(0x48, 5)], [], .ok) := by rfl
theorem test_rmmovl_negative : (nextOf (exec (.rmmovl 0 (some .eax) (some .ebx) 1) (withRegs [] 5 0 0x7fffffff 0))).map
    (fun t => (t.mem.wmem, t.stat, t.halted)) = some ([], .addressError, true) := by rfl

/-- V7, and a miss that marks ReadSet (V8, with the image of V-M). -/
theorem test_mrmovl : (nextOf (exec (.mrmovl 0 (some .ecx) (some .ebx) 0)
    (withWord (withRegs [] 0 0 0x48 0) 0x48 5))).map (fun t => (t.regs.ecx, t.mem.readSet)) = some (5, []) := by rfl
theorem test_mrmovl_miss : (nextOf (exec (.mrmovl 0 (some .eax) (some .ebx) 0xfffffffc)
    (withRegs imageM 0 0 8 0))).map (fun t => (t.regs.eax, t.mem.readSet)) = some (0xffffffff, [4]) := by rfl

/-- A4, A8. -/
theorem test_addl_A4 : aluResult .addl 0x80000000 0x80000000 = some (0, ⟨false, true, true⟩) := by rfl
theorem test_addl_A8 : aluResult .addl 0x80000000 0xffffffff = some (0x7fffffff, ⟨false, true, true⟩) := by rfl
/-- A10, A14. -/
theorem test_subl_A10 : aluResult .subl 2 1 = some (0xffffffff, ⟨false, true, false⟩) := by rfl
theorem test_subl_A14 : aluResult .subl 0x80000000 0 = some (0x80000000, ⟨false, false, true⟩) := by rfl
/-- A19, A20. -/
theorem test_andl_A19 : aluResult .andl 0xffffffff 0x80000000 = some (0x80000000, ⟨false, true, false⟩) := by rfl
theorem test_andl_A20 : aluResult .andl 0x0f 0xf0 = some (0, ⟨true, false, false⟩) := by rfl
/-- A22, A23. -/
theorem test_xorl_A22 : aluResult .xorl 0xffffffff 0x0f0f0f0f = some (0xf0f0f0f0, ⟨false, true, false⟩) := by rfl
theorem test_xorl_A23 : aluResult .xorl 5 5 = some (0, ⟨true, false, false⟩) := by rfl

/-- J1, and the columns of group V-C for the conditional jumps; not taken goes to `pc + 5`. -/
theorem test_jmp : jumpResult .jmp ⟨true, true, false⟩ = some 0x100 := by rfl
theorem test_jle : [jumpResult .jle ⟨false, true, true⟩, jumpResult .jle ⟨true, false, false⟩] = [some 5, some 0x100] := by rfl
theorem test_jl : [jumpResult .jl ⟨false, true, true⟩, jumpResult .jl ⟨false, false, true⟩] = [some 5, some 0x100] := by rfl
theorem test_je : [jumpResult .je ⟨false, true, true⟩, jumpResult .je ⟨true, false, false⟩] = [some 5, some 0x100] := by rfl
theorem test_jne : [jumpResult .jne ⟨true, true, false⟩, jumpResult .jne ⟨false, true, true⟩] = [some 5, some 0x100] := by rfl
theorem test_jge : [jumpResult .jge ⟨false, true, false⟩, jumpResult .jge ⟨true, true, true⟩] = [some 5, some 0x100] := by rfl
theorem test_jg : [jumpResult .jg ⟨false, false, true⟩, jumpResult .jg ⟨false, true, true⟩] = [some 5, some 0x100] := by rfl

/-- S7, and a call with the reset `%esp` (44_control.md R367). -/
theorem test_call : (nextOf (exec (.call 0 0x20) ((withRegs [] 0 0 0 0x100).setSeqPC 0x14))).map
    (fun t => (t.mem.wmem, t.regs.esp, t.seqPC)) = some ([(0xfc, 0x19)], 0xfc, 0x20) := by rfl
theorem test_call_at_zero : (nextOf (exec (.call 0 0x20) (withRegs [] 0 0 0 0))).map
    (fun t => (t.stat, t.regs.esp, t.halted)) = some (.addressError, 0, true) := by rfl

/-- S8, S10. -/
theorem test_ret : (nextOf (exec (.ret 0) (withWord (withRegs [] 0 0 0 0xfc) 0xfc 0x19))).map
    (fun t => (t.regs.esp, t.seqPC)) = some (0x100, 0x19) := by rfl
theorem test_ret_outside : (nextOf (exec (.ret 0) (withRegs imageM 0 0 0 0x40))).map
    (fun t => (t.stat, t.regs.esp)) = some (.addressError, 0x40) := by rfl

/-- S2, S6. -/
theorem test_pushl_esp : (nextOf (exec (.pushl 0 (some .esp) none) (withRegs [] 0 0 0 0x80))).map
    (fun t => (t.mem.wmem, t.regs.esp)) = some ([(0x7c, 0x80)], 0x7c) := by rfl
theorem test_pushl_wraps : (nextOf (exec (.pushl 0 (some .eax) none) (withRegs [] 3 0 0 0x80000000))).map
    (fun t => (t.mem.wmem, t.regs.esp)) = some ([(0x7ffffffc, 3)], 0x7ffffffc) := by rfl

/-- S3, S9. -/
theorem test_popl_esp : (nextOf (exec (.popl 0 (some .esp) none) (withWord (withRegs [] 0 0 0 0x7c) 0x7c 0x100))).map
    (fun t => t.regs.esp) = some 0x100 := by rfl
theorem test_popl_miss : (nextOf (exec (.popl 0 (some .eax) none) (withRegs imageM 0 0 0 0))).map
    (fun t => (t.regs.eax, t.regs.esp, t.mem.readSet)) = some (0x12345678, 4, [0]) := by rfl

/-- 30_encoding.md R174: a used RNONE source is refused. -/
theorem test_none_source_refused : refusalOf (exec (.addl none (some .eax)) State.reset) = some (.noneSource .iopl) := by rfl

/-! ## Data memory: group V-M -/

/-- M3, after M1. -/
theorem test_memory_M3 : ((memM.read 0).mem.write 0 5).ok = false := by rfl
/-- M4, M5, M6. -/
theorem test_memory_bounds :
    ((memM.read 4).ok, (memM.read 4).value, (memM.read 5).ok, (memM.read 0xfffffffc).ok) =
      (true, 0xffffffff, false, false) := by rfl
/-- M13, after M8 and M11. -/
theorem test_memory_M13 : (((memM.write 8 7).mem.write 1 3).mem.read 2).value = 0xffff1234 := by rfl

/-! ## Forwarding, hazards, cycles -/

/-- F1 to F7: every stage names `%eax`, then one fewer each time. -/
def forwardState (e m w : Bool) : State :=
  { State.reset with
    regs := { RegFile.all 0#32 with eax := 99 }
    eOut := { MReg.bubble with dstE := if e then some .eax else none, valE := 10 }
    M := { MReg.bubble with dstE := some .eax, valE := 30, dstM := if m then some .eax else none }
    mOut := { WReg.bubble with valM := 20 }
    W := { WReg.bubble with dstE := if w then some .eax else none, valE := 50 } }

theorem test_forward : [(forwardState true true true).forward (some .eax), (forwardState false true true).forward (some .eax),
    (forwardState false false true).forward (some .eax)] = [10, 20, 30] := by rfl

/-- H1. -/
def loadUseState : State :=
  { State.reset with
    E := { EReg.bubble with stat := .ok, icode := .imrmovl, dstM := some .eax, srcB := some .ebx }
    dOut := { EReg.bubble with stat := .ok, icode := .irrmovl, srcA := some .eax, dstE := some .ecx } }
theorem test_hazard_H1 : loadUseState.hazardDecisions = ⟨.stall, .stall, .bubble, .latch, .latch⟩ := by rfl

/-- H7, H8. -/
def jumpState (cnd : Bool) : State :=
  { State.reset with
    E := { EReg.bubble with stat := .ok, icode := .ijxx, valA := 5 }
    eOut := { MReg.bubble with stat := .ok, icode := .ijxx, cnd := cnd, valA := 5 } }
theorem test_hazard_H7 : (jumpState false).hazardDecisions = ⟨.latch, .bubble, .bubble, .latch, .latch⟩ := by rfl
theorem test_hazard_H8 : (jumpState true).hazardDecisions = ⟨.latch, .latch, .latch, .latch, .latch⟩ := by rfl

/-- H5, H11. -/
theorem test_hazard_ret : ({ State.reset with D := { DReg.bubble with icode := .iret } }.hazardDecisions,
    { jumpState false with D := { DReg.bubble with icode := .iret } }.hazardDecisions) =
    (⟨.stall, .bubble, .latch, .latch, .latch⟩, ⟨.stall, .bubble, .bubble, .latch, .latch⟩) := by rfl

/-- H10, H13. -/
def drainState (st : Status) : State := { State.reset with mOut := { WReg.bubble with stat := st } }
theorem test_hazard_drain : ({ loadUseState with W := { WReg.bubble with stat := .halt } }.hazardDecisions,
    (drainState .halt).hazardDecisions) =
    (⟨.stall, .stall, .bubble, .bubble, .latch⟩, ⟨.bubble, .bubble, .bubble, .bubble, .latch⟩) := by rfl

/-- P1, cycle 0: the first irmovl is fetched, F takes status Ok, and one entry is logged. -/
theorem test_cycle_P1 : (nextOf (step (State.reset.load imageP1))).map
    (fun t => (t.fOut.icode, t.fOut.valC, t.F.stat, t.cycle, t.log.length, t.stat)) =
    some (.iirmovl, 5, .ok, 1, 1, .ok) := by rfl

/-- L1 to L3, L5, L7. -/
theorem test_log_formats : [formatWord 5, formatWord 0xffffffff, formatWord 0x80000000, formatRegId none, formatBool true] =
    ["0x00000005", "0xffffffff", "0x80000000", "0x8", "0x1"] := by decide

/-- L4, the icode 6 of 60_exceptions.md R532, L6, and a function code of 15. -/
theorem test_log_formats_codes :
    [formatICode .iirmovl, formatICode .iopl, formatIFun 0, formatIFun 15] = ["0x3", "0x6", "0x0", "0xf"] := by decide

/-- P1, entry 4: the first irmovl in W (group V-L). -/
theorem test_log_entry_P1 : (WReg.mk .ok .iirmovl 5 0 (some .eax) none).texts =
    [("W.stat", "Ok"), ("W.icode", "0x3"), ("W.valE", "0x00000005"), ("W.valM", "0x00000000"), ("W.dstE", "0x0"),
      ("W.dstM", "0x8")] := by decide

/-- L8, and the cycle numbers 0 and 26: as many digits as each needs (60_exceptions.md R532). -/
theorem test_log_formats_unsigned : [formatUnsigned 0, formatUnsigned 26, formatStatus .halt] = ["0x0", "0x1a", "Halt"] := by
  decide

/-- 20_memory.md R100: the digits 6, 0, 0, 1 are the bytes 60 01. -/
theorem test_image_of_digits : imageOfDigits [6, 0, 0, 1] = [0x60, 0x01] := by rfl

/-! ## Witnesses: for every statement with hypotheses, a state and operands that meet them -/

/-- The state after reset, in the instruction view, with an image. -/
def instrState (image : List Byte) : State := { State.reset.load image with view := .instruction }

/-- A state with ReadSet holding 0. -/
def readAtZero : State := (withRegs imageM 0 0 0 4).setMem (memM.read 0).mem

theorem witness_EncodeInvertsDecode : decode [0x60, 0x01, 0xff] = .ok (.addl (some .eax) (some .ecx), [0xff]) := by rfl

/-- Both nibbles, at 9 and at 15 (E8, E9). -/
theorem witness_BadRegisterNibbleFailsTheFetch :
    (outsideImage [0x60, 0x09] 0 = false ∧ [0x60, 0x09].drop (0 : Word).toNat = (0x60 : Byte) :: 0x09 :: [] ∧
      (ICode.ofNibble (hi4 0x60)).needRegids = true ∧ 9 ≤ (lo4 0x09).toNat) ∧
    (ICode.ofNibble (hi4 0x30)).needRegids = true ∧ 9 ≤ (hi4 0xf0).toNat := by decide

/-- The first and the last invalid opcode; one in each of D, E and M; one leaving memory. -/
theorem witness_InvalidOpcodeTravelsAndStops :
    (outsideImage [0xc0] 0 = false ∧ [0xc0].drop (0 : Word).toNat = (0xc0 : Byte) :: [] ∧ 0xC ≤ (hi4 0xc0).toNat ∧
      0xC ≤ (hi4 0xf3).toNat) ∧
    ({ DReg.bubble with icode := .invC } : DReg).icode.valid = false ∧
    (∃ t, step { State.reset with dOut := { EReg.bubble with stat := .invalidInstruction, icode := .invF } } = .next t ∧
      t.E.icode.valid = false) ∧
    (∃ t, step { State.reset with fOut := { FetchOut.bubble 0 with icode := .invC } } = .next t ∧
      t.D.icode.valid = false) ∧
    (∃ t, step { State.reset with eOut := { MReg.bubble with stat := .invalidInstruction, icode := .invC } } = .next t ∧
      t.M.icode.valid = false) ∧
    (drainState .invalidInstruction).view = .clockCycle ∧ (drainState .invalidInstruction).halted = false ∧
    (drainState .invalidInstruction).mOut.stat = .invalidInstruction :=
  ⟨by decide, rfl, ⟨_, rfl, rfl⟩, ⟨_, rfl, rfl⟩, ⟨_, rfl, rfl⟩, rfl, rfl, rfl⟩

/-- A state whose next cycle takes the given instruction into E. -/
def enteringE (icode : ICode) (ifun : Nibble) : State :=
  { State.reset with dOut := { EReg.bubble with stat := .ok, icode := icode, ifun := ifun } }

/-- The least function code without meaning of each opcode, and the greatest. -/
theorem witness_UndefinedFunctionCodesAreRefused :
    (hi4 0x64 = 6#4 ∧ 4 ≤ (lo4 0x64).toNat ∧ (hi4 0x01).toNat ≤ 8 ∧ (lo4 0x88).toNat ≤ 8) ∧
    (hi4 0x27 = 2#4 ∧ 7 ≤ (lo4 0x27).toNat ∧ 7 ≤ (lo4 0x2f).toNat) ∧ (hi4 0x77 = 7#4 ∧ 7 ≤ (lo4 0x77).toNat) ∧
    ((instrState [0x64, 0x01]).view = .instruction ∧ (instrState [0x64, 0x01]).halted = false ∧
      outsideImage (instrState [0x64, 0x01]).mem.image (instrState [0x64, 0x01]).seqPC = false ∧
      decode ((instrState [0x64, 0x01]).mem.image.drop (instrState [0x64, 0x01]).seqPC.toNat) =
        .error (.undefinedFunction .iopl 4)) ∧
    ((enteringE .iopl 4).view = .clockCycle ∧ (enteringE .iopl 4).halted = false ∧
      (enteringE .iopl 4).hazardDecisions.E = .latch ∧ (enteringE .iopl 4).dOut.stat = .ok ∧
      ((enteringE .iopl 4).backEnd (enteringE .iopl 4).hazardDecisions).olderFault = false ∧
      4 ≤ (enteringE .iopl 4).dOut.ifun.toNat) ∧
    ((enteringE .ijxx 7).hazardDecisions.E = .latch ∧ 7 ≤ (enteringE .ijxx 7).dOut.ifun.toNat ∧
      (enteringE .irrmovl 15).hazardDecisions.E = .latch ∧ 7 ≤ (enteringE .irrmovl 15).dOut.ifun.toNat) := by
  refine ⟨by decide, by decide, by decide, ⟨rfl, rfl, rfl, rfl⟩, ⟨rfl, rfl, rfl, rfl, rfl, by decide⟩,
    rfl, by decide, rfl, by decide⟩

/-- Writable at the ends of the range: 0 and 0x7fffffff. -/
theorem witness_RmmovlStoresTheRegister :
    Writable memM (wrap32 (((withRegs imageM 1 0 8 0).regs.get .ebx).toInt + (0xfffffff8#32).toInt)) ∧
      Writable memM (wrap32 (((withRegs imageM 1 0 8 0).regs.get .ebx).toInt + (0x7ffffff7#32).toInt)) := by
  constructor <;> exact ⟨by decide, by decide⟩

/-- Readable at the last word of the image, and beyond it on a hit. -/
theorem witness_MrmovlLoadsTheWord :
    Readable memM (wrap32 (((withRegs imageM 1 0 8 0).regs.get .ebx).toInt + (0xfffffffc#32).toInt)) 0xffffffff ∧
      Readable (withWord (withRegs imageM 1 0 8 0) 0x48 5).mem (wrap32 ((8#32).toInt + (0x40#32).toInt)) 5 :=
  ⟨.inr ⟨rfl, by decide, by decide, rfl⟩, .inl rfl⟩

theorem witness_CallPushesTheReturnAddress :
    Writable (withRegs [] 0 0 0 4).mem (wrap32 (((withRegs [] 0 0 0 4).regs.get .esp).toInt - 4)) :=
  ⟨by decide, by decide⟩

theorem witness_RetPopsTheReturnAddress :
    Readable (withRegs imageM 0 0 0 4).mem ((withRegs imageM 0 0 0 4).regs.get .esp) 0xffffffff :=
  .inr ⟨rfl, by decide, by decide, rfl⟩

/-- S6: `%esp` wraps to a writable address. -/
theorem witness_PushlStoresTheOldValue :
    Writable (withRegs [] 0 0 0 0x80000000).mem (wrap32 (((withRegs [] 0 0 0 0x80000000).regs.get .esp).toInt - 4)) :=
  ⟨by decide, by decide⟩

theorem witness_PoplLoadsTheStackWord :
    Readable (withWord (withRegs [] 0 0 0 0x7c) 0x7c 0x100).mem
      ((withWord (withRegs [] 0 0 0 0x7c) 0x7c 0x100).regs.get .esp) 0x100 := .inl rfl

/-- A store at -4, a store at a read address, a load past the end and a load at a negative address. -/
theorem witness_FailedAccessStopsTheMachine :
    ((Instr.call 0 0x20).wellFormed = true ∧ storeAddr (.call 0 0x20) (withRegs [] 0 0 0 0) = some 0xfffffffc ∧
      ¬ Writable (withRegs [] 0 0 0 0).mem 0xfffffffc) ∧
    (storeAddr (.pushl 0 (some .eax) none) readAtZero = some 0 ∧ ¬ Writable readAtZero.mem 0) ∧
    (loadAddr (.ret 0) (withRegs imageM 0 0 0 5) = some 5 ∧ Unreadable (withRegs imageM 0 0 0 5).mem 5) ∧
    (loadAddr (.popl 0 none none) (withRegs imageM 0 0 0 0xffffffff) = some 0xffffffff ∧
      Unreadable (withRegs imageM 0 0 0 0xffffffff).mem 0xffffffff) :=
  ⟨⟨rfl, rfl, fun h => absurd h.1 (by decide)⟩, ⟨rfl, fun h => absurd h.2 (by decide)⟩,
    ⟨rfl, rfl, .inr (by decide)⟩, ⟨rfl, rfl, .inl (by decide)⟩⟩

theorem witness_AdmittedInstructionsAlwaysComplete :
    (Instr.popl 0 none none).wellFormed = true ∧ (Instr.pushl 0 none none).wellFormed = false := by decide

theorem witness_OnlyDestinationsChange :
    (∃ t, exec (.popl 0 (some .eax) none) (withRegs imageM 0 0 0 0) = .next t) ∧
      some Reg.ebx ∉ destinations (.popl 0 (some .eax) none) := ⟨⟨_, rfl⟩, by decide⟩

/-- One that stores and one that loads: the address is another one, and the load stores nowhere. -/
theorem witness_OnlyTheStoredWordChanges :
    ((∃ t, exec (.pushl 0 (some .eax) none) (withRegs imageM 0 0 0 8) = .next t) ∧
      storeAddr (.pushl 0 (some .eax) none) (withRegs imageM 0 0 0 8) ≠ some 0) ∧
    ((∃ t, exec (.popl 0 (some .eax) none) (withRegs imageM 0 0 0 0) = .next t) ∧
      storeAddr (.popl 0 (some .eax) none) (withRegs imageM 0 0 0 0) ≠ some 0) ∧
    loadAddr (.nop 0) State.reset = none ∧ storeAddr (.nop 0) State.reset = none :=
  ⟨⟨⟨_, rfl⟩, by decide⟩, ⟨⟨_, rfl⟩, by decide⟩, rfl, rfl⟩

theorem witness_InstructionsLeaveTheMachineAlone :
    ∃ t, exec (.rrmovl (some .eax) none) State.reset = .next t ∧ writesFlags (.rrmovl (some .eax) none) = false ∧
      t.stat = .ok := ⟨_, rfl, rfl, rfl⟩

theorem witness_StepRunsTheDecodedInstruction :
    (instrState [0x60, 0x01]).view = .instruction ∧ (instrState [0x60, 0x01]).halted = false ∧
      (instrState [0x60, 0x01]).instrAt (.addl (some .eax) (some .ecx)) := ⟨rfl, rfl, rfl, [], rfl⟩

/-- At the end of the image, a cut-off immediate, a bad register nibble, an invalid opcode. -/
theorem witness_FetchFaultStopsTheMachine :
    (instrState []).view = .instruction ∧ (instrState []).halted = false ∧
    outsideImage (instrState []).mem.image (instrState []).seqPC = true ∧
    (outsideImage (instrState [0x70]).mem.image (instrState [0x70]).seqPC = false ∧
      decode [0x70] = .error (.fields .noImmediate)) ∧
    decode [0x60, 0x09] = .error (.fields .badRegisterId) ∧ decode [0xff] = .error (.invalidOpcode .invF) :=
  ⟨rfl, rfl, rfl, ⟨rfl, rfl⟩, rfl, rfl⟩

theorem witness_EndedRunChangesNothing :
    ({ State.reset with halted := true } : State).halted = true ∧ ∃ t, step State.reset = .next t := ⟨rfl, _, rfl⟩

/-- A running machine in the cycle view has a next state: what most statements about a cycle assume. -/
theorem witness_a_cycle :
    State.reset.view = .clockCycle ∧ State.reset.halted = false ∧ ∃ t, step State.reset = .next t := ⟨rfl, rfl, _, rfl⟩

theorem witness_CyclesAreCountedAndLogged :
    (∃ t, State.runCycles 2 (State.reset.load imageP1) = .next t ∧ t.halted = false) ∧
      (∃ t, exec (.nop 0) State.reset = .next t) ∧ ∃ t, State.reset.clock = .next t :=
  ⟨⟨_, rfl, rfl⟩, ⟨_, rfl⟩, _, rfl⟩

theorem witness_GlobalStatusFollowsWriteBack :
    State.reset.view = .clockCycle ∧ State.reset.stat = .ok ∧
      (∃ t, step State.reset = .next t ∧ t.W.stat = .bubble) ∧
      ∃ t, step (drainState .ok) = .next t ∧ t.W.stat = .ok := ⟨rfl, rfl, ⟨_, rfl, rfl⟩, _, rfl, rfl⟩

/-- A cycle that ends the run by a status, one that ends it by the bound, and one that does neither. -/
theorem witness_EndOfCycle :
    (∃ t, step (drainState .halt) = .next t ∧ t.halted = true) ∧
      (∃ t, step (State.reset.configure 1) = .next t ∧ t.halted = true) ∧
      ∃ t, step (State.reset.configure 2) = .next t ∧ t.halted = false :=
  ⟨⟨_, rfl, rfl⟩, ⟨_, rfl, rfl⟩, _, rfl, rfl⟩

theorem witness_RunIsRepeatedSingleSteps :
    (∃ t, ((State.reset.configure 2).load imageP1).runToCompletion = .next t) ∧
      ∃ t, State.runCycles 1 (State.reset.load imageP1) = .next t := ⟨⟨_, rfl⟩, _, rfl⟩

/-- Each row of the combination table, and a cycle for each mode of each register. -/
theorem witness_HazardsChooseTheModes :
    (State.reset.loadUse = false ∧ State.reset.retHazard = false ∧ State.reset.mispredict = false ∧
      State.reset.drain = false) ∧
    (loadUseState.loadUse = true ∧ loadUseState.drain = false) ∧
    ((jumpState false).mispredict = true ∧ (jumpState false).retHazard = false ∧ (jumpState false).drain = false) ∧
    ({ State.reset with D := { DReg.bubble with icode := .iret } }.retHazard = true ∧
      { State.reset with D := { DReg.bubble with icode := .iret } }.loadUse = false) ∧
    ({ jumpState false with D := { DReg.bubble with icode := .iret } }.retHazard = true ∧
      { jumpState false with D := { DReg.bubble with icode := .iret } }.mispredict = true) ∧
    (drainState .halt).drain = true ∧
    ((∃ t, step State.reset = .next t) ∧ State.reset.hazardDecisions = ⟨.latch, .latch, .latch, .latch, .latch⟩) ∧
    ((∃ t, step (drainState .halt) = .next t) ∧
      (drainState .halt).hazardDecisions = ⟨.bubble, .bubble, .bubble, .bubble, .latch⟩) ∧
    ((∃ t, step loadUseState = .next t) ∧
      loadUseState.hazardDecisions = ⟨.stall, .stall, .bubble, .latch, .latch⟩) := by
  refine ⟨by decide, by decide, by decide, by decide, by decide, by decide, ⟨⟨_, rfl⟩, rfl⟩, ⟨⟨_, rfl⟩, rfl⟩,
    ⟨_, rfl⟩, rfl⟩

/-- The drain with a load/use hazard, and with a ret hazard; a stalled cycle runs. -/
theorem witness_StallBeatsBubble :
    ({ loadUseState with W := { WReg.bubble with stat := .halt } }.loadUse = true ∧
      { loadUseState with W := { WReg.bubble with stat := .halt } }.drain = true) ∧
    { drainState .halt with D := { DReg.bubble with icode := .iret } }.retHazard = true ∧
    ∃ t, step loadUseState = .next t ∧ loadUseState.hazardDecisions.F = .stall ∧
      loadUseState.hazardDecisions.D = .stall := ⟨⟨rfl, rfl⟩, rfl, _, rfl, rfl, rfl⟩

theorem witness_HazardsActOnThePipeline :
    ((∃ t, step loadUseState = .next t) ∧ loadUseState.E.icode = .imrmovl ∧ loadUseState.E.dstM = some .eax ∧
      loadUseState.dOut.srcA = some .eax) ∧
    (∃ t, step { State.reset with M := { MReg.bubble with icode := .iret } } = .next t) ∧
    { State.reset with M := { MReg.bubble with icode := .iret } }.loadUse = false ∧
    (∃ t, step (jumpState false) = .next t) ∧ (jumpState false).E.icode = .ijxx ∧
      (jumpState false).eOut.cnd = false ∧ (jumpState false).eOut.icode = .ijxx ∧ (jumpState false).drain = false :=
  ⟨⟨⟨_, rfl⟩, rfl, rfl, rfl⟩, ⟨_, rfl⟩, rfl, ⟨_, rfl⟩, rfl, rfl, rfl, rfl⟩

theorem witness_DrainCommitsNothingYounger :
    (drainState .addressError).view = .clockCycle ∧ (drainState .addressError).halted = false ∧
      (drainState .addressError).mOut.stat.faulty = true ∧ (drainState .addressError).cfg.faultWB = .suppress := by
  decide

/-- A state whose next cycle takes an addl into E and an instruction with the given status into M. -/
def fedE (st : Status) : State :=
  { State.reset with
    dOut := { EReg.bubble with stat := .ok, icode := .iopl, srcA := some .eax, srcB := some .ecx, dstE := some .ecx }
    eOut := { MReg.bubble with stat := st } }

/-- An addl in E with nothing faulting, and the same behind a halt. -/
theorem witness_FlagsAreWrittenOnlyByUnfaultedArithmetic :
    (∃ t, step (fedE .ok) = .next t ∧ t.E.icode = .iopl ∧ t.mOut.stat.faulty = false ∧ t.W.stat.faulty = false ∧
      AluFun.ofNibble? t.E.ifun = some .add) ∧
    ∃ t, step (fedE .halt) = .next t ∧ t.E.icode = .iopl ∧ t.mOut.stat.faulty = true :=
  ⟨⟨_, rfl, rfl, rfl, rfl, rfl⟩, _, rfl, rfl, rfl⟩

theorem witness_ConditionFormulas : 7 ≤ (7#4).toNat ∧ 7 ≤ (15#4).toNat := by decide

/-- Each row of the source table: rA, %esp, none. -/
theorem witness_DecodeStage :
    (∃ t, step { State.reset with fOut := { FetchOut.bubble 0 with stat := .ok, icode := .iopl } } = .next t ∧
      t.D.icode = .iopl) ∧
    (∃ t, step { State.reset with fOut := { FetchOut.bubble 0 with stat := .ok, icode := .iret } } = .next t ∧
      t.D.icode = .iret) ∧
    ∃ t, step State.reset = .next t ∧ t.D.icode = .inop := ⟨⟨_, rfl, rfl⟩, ⟨_, rfl, rfl⟩, _, rfl, rfl⟩

theorem witness_ExecuteStagePasses :
    ∃ t, step { State.reset with
      dOut := { EReg.bubble with stat := .ok, icode := .irrmovl, srcA := some .eax, dstE := some .ecx } } = .next t ∧
      t.E.icode = .irrmovl ∧ t.E.ifun = 0#4 := ⟨_, rfl, rfl, rfl⟩

/-- A state whose next cycle takes a data access at `a` into M. -/
def enteringM (icode : ICode) (a : Word) : State :=
  { State.reset with eOut := { MReg.bubble with stat := .ok, icode := icode, valE := a } }

/-- A read that fails, a write that succeeds, a write that fails, and no access. -/
theorem witness_MemoryStatus :
    (∃ t, step (enteringM .imrmovl 0) = .next t ∧ t.M.stat = .ok ∧ memReads t.M.icode = true) ∧
      (∃ t, step (enteringM .irmmovl 0) = .next t ∧ t.M.stat = .ok ∧ memWrites t.M.icode = true ∧ t.mOut.stat = .ok) ∧
      (∃ t, step (enteringM .irmmovl 0xffffffff) = .next t ∧ t.mOut.stat = .addressError) ∧
      ∃ t, step (enteringM .inop 0) = .next t ∧ memReads t.M.icode = false ∧ memWrites t.M.icode = false :=
  ⟨⟨_, rfl, rfl, rfl⟩, ⟨_, rfl, rfl, rfl, rfl⟩, ⟨_, rfl, rfl⟩, _, rfl, rfl, rfl⟩

/-- Outside (at the length, and negative), unreadable fields, readable fields. -/
theorem witness_FetchOutputs :
    (outsideImage [0x10] 1 = true ∧ outsideImage [0x10] 0xffffffff = true ∧ outsideImage [0x30] 0 = false) ∧
      readFields [0x30] = .error .noRegisterByte ∧ readFields [0x10] = .ok (⟨.inop, 0, none, none, 0⟩, []) :=
  ⟨by decide, rfl, rfl⟩

theorem witness_WriteBackCommitsInOrder :
    Status.addressError.faulty = true ∧ Status.invalidInstruction.faulty = true ∧ Status.halt.faulty = true ∧
      State.reset.cfg.faultWB = .suppress ∧ espId ≠ some Reg.eax := by decide

theorem witness_OnlyWriteBackWritesRegisters :
    ∃ t, step { State.reset with mOut := { WReg.bubble with stat := .ok, dstE := some .eax, valE := 5 } } = .next t ∧
      t.regs.eax = 5 := ⟨_, rfl, rfl⟩

/-- M4 and M9 are readable; M5 and M6 are not. -/
theorem witness_DataReadRule :
    Readable memM 4 0xffffffff ∧ Readable (memM.write 8 7).mem 8 7 ∧ Unreadable memM 5 ∧ Unreadable memM 0xfffffffc :=
  ⟨.inr ⟨rfl, by decide, by decide, rfl⟩, .inl rfl, ⟨rfl, .inr (by decide)⟩, ⟨rfl, .inl (by decide)⟩⟩

/-- M3, M7, M8, M14. -/
theorem witness_DataWriteRule :
    (0#32).toNat ∈ (memM.read 0).mem.readSet ∧ (0xfffffffc#32).toInt < 0 ∧
      (0 ≤ (8#32).toInt ∧ (8#32).toNat ∉ (memM.read 0).mem.readSet) ∧
      (0 ≤ (0x7ffffffc#32).toInt ∧ (0x7ffffffc#32).toNat ∉ memM.readSet) := by decide

/-- M11: keys 0 and 1. -/
theorem witness_KeysShareNoBytes : (1#32) ≠ 0#32 ∧ (memM.write 1 3).ok = true := by decide

theorem witness_ReadSetOnlyGrows :
    wordAt (4#32).toNat memM.wmem = none ∧ (memM.read 4).ok = true ∧
      ∃ t, step readAtZero = .next t ∧ 0 ∈ readAtZero.mem.readSet :=
  ⟨rfl, rfl, _, rfl, by decide⟩

theorem witness_FetchNeverSeesStores :
    (∃ t, step (enteringM .irmmovl 0) = .next t ∧ t.mem.wmem = [(0, 0)]) ∧
      State.reset.mem.image = (State.reset.configure 5).mem.image ∧
      State.reset.fetchPC = (State.reset.configure 5).fetchPC ∧ State.reset.seqPC = (State.reset.configure 5).seqPC :=
  ⟨⟨_, rfl, rfl⟩, rfl, rfl, rfl⟩

/-- The state after reset is good, and has a next state in both views. -/
theorem witness_StepKeepsAGoodState :
    State.reset.Inv ∧ (∃ t, step State.reset = .next t) ∧ ∃ t, step (instrState [0x10]) = .next t :=
  ⟨⟨by decide, fun a ha => absurd ha (by simp [State.reset, State.loaded]), by decide, rfl, by decide, by decide⟩,
    ⟨_, rfl⟩, _, rfl⟩

theorem witness_ResetAndLoadAreGood : imageP1.length < 2 ^ 31 := by decide

theorem witness_StepKeepsStatusesAgreeing :
    State.reset.StatusesAgree ∧ ∃ t, step State.reset = .next t :=
  ⟨⟨rfl, rfl, rfl, rfl, rfl, rfl, rfl, rfl⟩, _, rfl⟩

/-- Every load leaves an empty pipeline. -/
theorem load_quiescent (s : State) (image : List Byte) : (s.load image).Quiescent :=
  ⟨rfl, rfl, rfl, rfl, rfl, ⟨rfl, rfl⟩, rfl, rfl, rfl⟩

theorem witness_FiveCyclesDoWhatTheInstructionSays :
    (State.reset.load imageP1).Quiescent ∧ (State.reset.load imageP1).instrAt (.irmovl 0 none (some .eax) 5) ∧
      (∃ u, exec (.irmovl 0 none (some .eax) 5) (State.reset.load imageP1) = .next u) ∧
      (State.reset.load imageP1).cycle + 5 < (State.reset.load imageP1).maxCycles ∧
      (∃ t, State.runCycles 4 (State.reset.load imageP1) = .next t) ∧
      ∃ t, State.runCycles 5 (State.reset.load imageP1) = .next t ∧ t.regs.eax = 5 :=
  ⟨load_quiescent _ _, ⟨rfl, _, rfl⟩, ⟨_, rfl⟩, by decide, ⟨_, rfl⟩, _, rfl, rfl⟩

/-- Prediction right (irmovl); a jump not taken (je with the reset flags); a ret that finds its word in WMem. -/
theorem witness_FetchGoesOnAtTheNextInstruction :
    ((State.reset.load imageP1).Quiescent ∧ redirects (.irmovl 0 none (some .eax) 5) State.reset.cc = false) ∧
    ((State.reset.load [0x73, 0, 1, 0, 0]).instrAt (.je 0x100) ∧
      (∃ u, exec (.je 0x100) (State.reset.load [0x73, 0, 1, 0, 0]) = .next u ∧ u.stat = .ok) ∧
      redirects (.je 0x100) (State.reset.load [0x73, 0, 1, 0, 0]).cc = true ∧ ∀ f, Instr.je 0x100 ≠ .ret f) ∧
    ((withWord (State.reset.load [0x90]) 0 1).Quiescent ∧ (withWord (State.reset.load [0x90]) 0 1).instrAt (.ret 0) ∧
      (∃ u, exec (.ret 0) (withWord (State.reset.load [0x90]) 0 1) = .next u ∧ u.stat = .ok) ∧
      (withWord (State.reset.load [0x90]) 0 1).cycle + 5 < (withWord (State.reset.load [0x90]) 0 1).maxCycles) :=
  ⟨⟨load_quiescent _ _, rfl⟩, ⟨⟨rfl, _, rfl⟩, ⟨_, rfl, rfl⟩, rfl, fun f h => by cases h⟩,
    ⟨⟨rfl, rfl, rfl, rfl, rfl, ⟨rfl, rfl⟩, rfl, rfl, rfl⟩, ⟨rfl, _, rfl⟩, ⟨_, rfl, rfl⟩, by decide⟩⟩

/-- A run that goes on, and a run that has stopped by a status. -/
theorem witness_PipelineAgreesWithOneAtATime :
    (∃ t, State.runCycles 3 (State.reset.load imageP1) = .next t) ∧
      ∃ t, State.runCycles 5 (State.reset.load []) = .next t ∧ t.stat.faulty = true := ⟨⟨_, rfl⟩, _, rfl, rfl⟩

/-- A state whose next cycle takes the given opcode into D. -/
def enteringD (icode : ICode) : State :=
  { State.reset with fOut := { FetchOut.bubble 0 with stat := .ok, icode := icode, rA := some .eax, rB := some .ecx } }

/-- A state whose next cycle takes the given opcode into E with two sources. -/
def enteringSources (icode : ICode) : State :=
  { State.reset with dOut := { EReg.bubble with stat := .ok, icode := icode, srcA := some .eax, srcB := some .ecx } }

/-- Every opcode in D, and every opcode in E with a function code that has a meaning (an invalid one among them). -/
theorem witness_SecondSourceAndAluInputs :
    (∀ c ∈ [ICode.ihalt, .inop, .irrmovl, .iirmovl, .irmmovl, .imrmovl, .iopl, .ijxx, .icall, .iret, .ipushl, .ipopl, .invC],
      ((nextOf (step (enteringD c))).map fun t => t.D.icode) = some c) ∧
    (∀ c ∈ [ICode.ihalt, .inop, .iirmovl, .ijxx, .icall, .iret, .ipopl, .invF],
      ((nextOf (step (enteringE c 0))).map fun t => t.E.icode) = some c) ∧
    (∀ c ∈ [ICode.irrmovl, .irmmovl, .imrmovl, .iopl, .ipushl],
      ((nextOf (step (enteringSources c))).map fun t => t.E.icode) = some c) ∧
    AluFun.ofNibble? 0 = some .add ∧ AluFun.ofNibble? 3 = some .xor := by
  decide

/-- Every opcode with an access in M with status Ok; one without an access; one with another status; a read that fails. -/
theorem witness_MemoryStageAccesses :
    (∀ c ∈ [ICode.imrmovl, .ipopl, .iret, .irmmovl, .ipushl, .icall, .inop],
      ((nextOf (step (enteringM c 8))).map fun t => (t.M.icode, t.M.stat)) = some (c, .ok)) ∧
    ((nextOf (step State.reset)).map fun t => t.M.stat) = some .bubble ∧ (memM.read 5).ok = false := by
  decide

end Sys2Proof.Tests
end

section
/-! The cycle a step takes in the clock-cycle view, and the statements on the state (10_state.md). -/

namespace Sys2Proof.Machine

/-- In the clock-cycle view a step of a run that has not ended is one clock cycle. -/
theorem step_cycleOf {s t : State} (view : s.view = .clockCycle) (running : s.halted = false)
    (h : step s = .next t) : CycleOf s t := by
  cases step_cases s t h with
  | ended stopped _ => simp [running] at stopped
  | cycle _ _ cycle => exact cycle
  | runs _ other => simp [view] at other
  | stops _ other => simp [view] at other

/-- The registers after a cycle are those that the write-back of the instruction now in W makes of the old ones. -/
theorem CycleOf.regs_eq_commit_W {s t : State} (c : CycleOf s t) :
    t.regs = (s.commit t.W.stat t.W.dstE t.W.valE t.W.dstM t.W.valM).regs := by
  rw [c.W]
  exact c.regs

/-- Settles O45: of the stages of a cycle only write-back changes a register, and W holds what left memory the cycle
before. -/
theorem onlyWriteBackWritesRegisters : Obligations.OnlyWriteBackWritesRegisters := by
  unfold Obligations.OnlyWriteBackWritesRegisters
  exact ⟨fun _ _ view running h => (step_cycleOf view running h).regs_eq_commit_W, State.configure_regs⟩

end Sys2Proof.Machine
end

section
/-! The statements on data memory and on what a fetch reads (20_memory.md). -/

namespace Sys2Proof.Machine

/-! ## Stores -/

theorem not_writable {m : Memory} {a : Word} : ¬ Writable m a ↔ a.toInt < 0 ∨ a.toNat ∈ m.readSet := by
  unfold Writable
  rw [not_and_or, not_le, not_not]

theorem Memory.write_of_not_writable {m : Memory} {a : Word} (h : ¬ Writable m a) (v : Word) :
    m.write a v = ⟨false, m⟩ := by
  rcases m.write_cases a v with ⟨_, e⟩ | ⟨hw, _⟩
  · exact e
  · exact absurd hw h

theorem Memory.write_of_writable {m : Memory} {a : Word} (h : Writable m a) (v : Word) :
    m.write a v = ⟨true, { m with wmem := insertWord a.toNat v m.wmem }⟩ := by
  rcases m.write_cases a v with ⟨hw, _⟩ | ⟨_, e⟩
  · exact absurd h hw
  · exact e

/-- A write where a store is possible succeeds and stores the word. -/
theorem Memory.write_storedAt {m : Memory} {a : Word} (h : Writable m a) (v : Word) :
    (m.write a v).ok = true ∧ StoredAt m (m.write a v).mem a v := by
  rw [Memory.write_of_writable h v]
  exact ⟨rfl, by simp, fun k hk => by simp [hk.symm], rfl, rfl⟩

/-- A store marks no address, so it does not bar the next store (20_memory.md R112). -/
theorem Writable.write {m : Memory} {a : Word} (h : Writable m a) (b v : Word) : Writable (m.write b v).mem a := by
  unfold Writable
  rw [Memory.write_readSet]
  exact h

/-- Of two stores at one key only the second is left. -/
theorem StoredAt.overwrite {m n p : Memory} {a v w : Word} (first : StoredAt m n a v) (second : StoredAt n p a w) :
    StoredAt m p a w where
  stored := second.stored
  others k hk := (second.others k hk).trans (first.others k hk)
  image := second.image.trans first.image
  readSet := second.readSet.trans first.readSet

/-- Settles O47, by the two outcomes of a write; the second write is possible because the first marks nothing. -/
theorem dataWriteRule : Obligations.DataWriteRule := by
  unfold Obligations.DataWriteRule
  refine fun m a v w => ⟨fun h => Memory.write_of_not_writable (not_writable.mpr h) v, fun (h : Writable m a) => ?_⟩
  obtain ⟨ok₁, stored₁⟩ := Memory.write_storedAt h v
  obtain ⟨ok₂, stored₂⟩ := Memory.write_storedAt (h.write a v) w
  exact ⟨ok₁, stored₁, ok₂, stored₁.overwrite stored₂⟩

/-! ## Keys -/

/-- A write leaves the entry of every key but its own, whether it succeeds or not. -/
theorem Memory.wordAt_write_ne (m : Memory) {a b : Word} (v : Word) (h : a ≠ b) :
    wordAt b.toNat (m.write a v).mem.wmem = wordAt b.toNat m.wmem := by
  rcases m.write_cases a v with ⟨_, e⟩ | ⟨_, e⟩
  · rw [e]
  · simp [e, toNat_ne_of_ne h]

/-- What a read gives: the word of the key, or else the image word where the image holds one (20_memory.md R110). -/
theorem Memory.peek_eq (m : Memory) (a : Word) :
    m.peek a = (wordAt a.toNat m.wmem).or
      (if a.toInt < 0 ∨ (m.image.length : Int) < a.toInt + 4 then none else some (imageWord m.image a.toNat)) := by
  unfold Memory.peek
  rcases m.read_cases a with ⟨v, hit, e⟩ | ⟨miss, h0, h4, e⟩ | ⟨miss, outside, e⟩
  · simp [e, hit]
  · simp [e, miss, h0.not_gt, h4.not_gt]
  · simp [e, miss, outside]

theorem Memory.peek_write_ne (m : Memory) {a b : Word} (v : Word) (h : a ≠ b) :
    (m.write a v).mem.peek b = m.peek b := by
  rw [Memory.peek_eq, Memory.peek_eq, Memory.write_image, m.wordAt_write_ne v h]

theorem Memory.peek_write_same {m : Memory} {a v : Word} (h : (m.write a v).ok = true) :
    (m.write a v).mem.peek a = some v := by
  rcases m.write_cases a v with ⟨_, e⟩ | ⟨_, e⟩
  · simp [e] at h
  · simp [e, Memory.peek_eq]

/-- Settles O48: a key holds a whole word, so a write meets a read only at its own key. -/
theorem keysShareNoBytes : Obligations.KeysShareNoBytes := by
  unfold Obligations.KeysShareNoBytes
  exact ⟨fun m _ _ v h => ⟨m.peek_write_ne v h, m.wordAt_write_ne v h⟩, fun _ _ _ h => Memory.peek_write_same h,
    fun _ _ => rfl⟩

/-! ## ReadSet and the image along a step -/

/-- A successful read that misses gives the image word and marks its address. -/
theorem Memory.read_miss {m : Memory} {a : Word} (miss : wordAt a.toNat m.wmem = none) (ok : (m.read a).ok = true) :
    (m.read a).value = imageWord m.image a.toNat ∧ a.toNat ∈ (m.read a).mem.readSet := by
  rcases m.read_cases a with ⟨v, hit, _⟩ | ⟨_, _, _, e⟩ | ⟨_, _, e⟩
  · simp [miss] at hit
  · simp [e]
  · simp [e] at ok

theorem Memory.readSet_subset_read (m : Memory) (a : Word) : m.readSet ⊆ (m.read a).mem.readSet := by
  intro k hk
  rcases m.read_cases a with ⟨v, _, e⟩ | ⟨_, _, _, e⟩ | ⟨_, _, e⟩
  · rwa [e]
  · simp [e, hk]
  · rwa [e]

theorem MemoryOf.readSet_subset {m n : Memory} (h : MemoryOf m n) : m.readSet ⊆ n.readSet := by
  cases h with
  | same e => rw [e]; exact List.Subset.refl _
  | read a e => rw [e]; exact m.readSet_subset_read a
  | write a v e => rw [e, Memory.write_readSet]; exact List.Subset.refl _

theorem MemoryOf.image_eq {m n : Memory} (h : MemoryOf m n) : n.image = m.image := by
  cases h with
  | same e => rw [e]
  | read a e => rw [e, Memory.read_image]
  | write a v e => rw [e, Memory.write_image]

/-- Settles O49: a step of either view touches memory by at most one read or write, and neither takes an address out
of ReadSet. -/
theorem readSetOnlyGrows : Obligations.ReadSetOnlyGrows := by
  unfold Obligations.ReadSetOnlyGrows
  exact ⟨fun _ _ => Memory.read_miss, fun _ _ h _ ha => (step_memory h).readSet_subset ha, fun _ _ => rfl⟩

/-! ## Fetch -/

/-- The fetch stage looks at the image and the fetch address only. -/
theorem State.fetchCompute_fOut_congr {s t : State} (image : s.mem.image = t.mem.image) (pc : s.fetchPC = t.fetchPC) :
    s.fetchCompute.fOut = t.fetchCompute.fOut := by
  rw [State.fetchCompute_fOut, State.fetchCompute_fOut, image, pc]

/-- The fetch of the instruction view looks at the image and the sequential program counter only. -/
theorem State.fetchInstr_congr {s t : State} (image : s.mem.image = t.mem.image) (pc : s.seqPC = t.seqPC) :
    s.fetchInstr = t.fetchInstr := by
  unfold State.fetchInstr
  rw [image, pc]

@[simp] theorem State.setMem_fetchPC (s : State) (m : Memory) : (s.setMem m).fetchPC = s.fetchPC := rfl
@[simp] theorem State.setMem_seqPC (s : State) (m : Memory) : (s.setMem m).seqPC = s.seqPC := rfl

/-- Settles O50: a store keeps the image and the two fetch addresses, and a fetch depends on nothing else. -/
theorem fetchNeverSeesStores : Obligations.FetchNeverSeesStores := by
  unfold Obligations.FetchNeverSeesStores
  refine ⟨fun _ _ h => (step_memory h).image_eq, fun s a v => ?_, State.fetchCompute_mem,
    fun _ _ => State.fetchCompute_fOut_congr, fun _ _ => State.fetchInstr_congr⟩
  have image : (s.setMem (s.mem.write a v).mem).mem.image = s.mem.image := Memory.write_image s.mem a v
  exact ⟨State.fetchCompute_fOut_congr image (s.setMem_fetchPC _), State.fetchInstr_congr image (s.setMem_seqPC _)⟩

end Sys2Proof.Machine
end

section
/-! The statements on what the fetch and decode stages put on their wires (40_pipeline_stages.md). -/

namespace Sys2Proof.Machine

/-! ## Fetch -/

/-- What a fetch can give: it fails outside the image or where the bytes have no fields, and else gives the fields
read (40_pipeline_stages.md R211 to R219). -/
theorem fetchAt_cases (image : List Byte) (pc : Word) :
    ((outsideImage image pc = true ∨ ∃ e, readFields (image.drop pc.toNat) = .error e) ∧
      fetchAt image pc = fetchFails pc) ∨
    ∃ fl rest, outsideImage image pc = false ∧ readFields (image.drop pc.toNat) = .ok (fl, rest) ∧
      fetchAt image pc = ⟨pc, fetchStatus fl.icode, fl.icode, fl.ifun, fl.rA, fl.rB, fl.valC,
        pc + BitVec.ofNat 32 fl.icode.length,
        predictPC fl.icode fl.valC (pc + BitVec.ofNat 32 fl.icode.length)⟩ := by
  unfold fetchAt
  cases outside : outsideImage image pc with
  | true => exact .inl ⟨.inl rfl, rfl⟩
  | false =>
    cases fields : readFields (image.drop pc.toNat) with
    | error e => exact .inl ⟨.inr ⟨e, rfl⟩, rfl⟩
    | ok read =>
      obtain ⟨fl, rest⟩ := read
      exact .inr ⟨fl, rest, rfl, rfl, rfl⟩

/-- Settles O42: a failed fetch is a no-op predicted to the next byte, and every other prediction is `predictPC`. -/
theorem predictTaken : Obligations.PredictTaken := by
  unfold Obligations.PredictTaken
  intro image pc
  rcases fetchAt_cases image pc with ⟨_, e⟩ | ⟨_, _, _, _, e⟩
  · rw [e]
    exact (if_neg (by simp [fetchFails])).symm
  · rw [e]
    rfl

/-! ## Decode -/

/-- The opcodes whose first source is rA (40_pipeline_stages.md R221). -/
theorem srcAOf_eq_rA {D : DReg}
    (h : D.icode = .irrmovl ∨ D.icode = .irmmovl ∨ D.icode = .iopl ∨ D.icode = .ipushl) : srcAOf D = D.rA := by
  unfold srcAOf
  rcases h with h | h | h | h <;> rw [h]

/-- The opcodes whose first source is `%esp` (40_pipeline_stages.md R221). -/
theorem srcAOf_eq_esp {D : DReg} (h : D.icode = .ipopl ∨ D.icode = .iret) : srcAOf D = espId := by
  unfold srcAOf
  rcases h with h | h <;> rw [h]

/-- No other opcode has a first source (40_pipeline_stages.md R221). -/
theorem srcAOf_eq_none {D : DReg}
    (h : D.icode ≠ .irrmovl ∧ D.icode ≠ .irmmovl ∧ D.icode ≠ .iopl ∧ D.icode ≠ .ipushl ∧ D.icode ≠ .ipopl ∧
      D.icode ≠ .iret) : srcAOf D = none := by
  unfold srcAOf
  cases icode : D.icode <;> simp [icode] at h ⊢

/-- The opcodes with a memory destination (40_pipeline_stages.md R224). -/
theorem dstMOf_eq_ite (D : DReg) :
    dstMOf D = if D.icode = .imrmovl ∨ D.icode = .ipopl then D.rA else none := by
  unfold dstMOf
  cases D.icode <;> rfl

/-- Settles O39: the decode wires after a cycle are computed from the D it leaves, by the tables for the first source
and the memory destination; `decodeValA` takes the fall-through address of a call or jump. -/
theorem decodeStage : Obligations.DecodeStage := by
  unfold Obligations.DecodeStage
  intro s t view running h
  rw [(step_cycleOf view running h).dOut]
  exact ⟨⟨rfl, rfl, rfl, rfl⟩, srcAOf_eq_rA, srcAOf_eq_esp, srcAOf_eq_none, dstMOf_eq_ite t.D, rfl⟩

end Sys2Proof.Machine
end

section
/-! The statement on the global status (60_exceptions.md). -/

namespace Sys2Proof.Machine

/-- The global status stays Ok over a cycle that leaves a bubble or an Ok instruction in W. -/
theorem CycleOf.stat_eq_ok {s t : State} (c : CycleOf s t) (hs : s.stat = .ok)
    (retires : t.W.stat = .bubble ∨ t.W.stat = .ok) : t.stat = .ok := by
  rw [c.stat]
  rcases retires with bubble | ok
  · rw [if_pos bubble, hs]
  · rw [ok, if_neg (by decide)]

/-- Settles O29: the end of a cycle takes the status in W (`CycleOf.stat`), and a step after the end of the run changes
nothing (R523). -/
theorem globalStatusFollowsWriteBack : Obligations.GlobalStatusFollowsWriteBack := by
  unfold Obligations.GlobalStatusFollowsWriteBack
  refine ⟨fun _ _ view running h => (step_cycleOf view running h).stat, fun _ _ => rfl,
    fun s t view h hs retires => ?_⟩
  cases step_cases s t h with
  | ended _ same => rw [same, hs]
  | cycle _ _ cycle => exact cycle.stat_eq_ok hs retires
  | runs _ other => simp [view] at other
  | stops _ other => simp [view] at other

end Sys2Proof.Machine
end

section
/-! The statement on stalls against bubbles (70_reset_and_hazards.md). -/

namespace Sys2Proof.Machine

/-! ## What asks F and D to stall -/

/-- F stalls exactly under a load/use or ret hazard, whatever else asks it to bubble (70_reset_and_hazards.md R615). -/
theorem State.hazardDecisions_F_eq_stall {s : State} :
    s.hazardDecisions.F = .stall ↔ s.loadUse = true ∨ s.retHazard = true := by
  simp only [State.hazardDecisions, ← Bool.or_eq_true]
  split_ifs with asked <;> simp [asked]

/-- D stalls exactly under a load/use hazard, whatever else asks it to bubble (70_reset_and_hazards.md R615). -/
theorem State.hazardDecisions_D_eq_stall {s : State} : s.hazardDecisions.D = .stall ↔ s.loadUse = true := by
  simp only [State.hazardDecisions]
  split_ifs with asked <;> simp [asked]

/-! ## What a stalled register holds after the cycle -/

theorem CycleOf.F_of_stall {s t : State} (c : CycleOf s t) (stall : s.hazardDecisions.F = .stall) : t.F = s.F := by
  rw [c.F, if_pos (Bool.or_eq_true_iff.mpr (State.hazardDecisions_F_eq_stall.mp stall))]

theorem CycleOf.D_of_stall {s t : State} (c : CycleOf s t) (stall : s.hazardDecisions.D = .stall) : t.D = s.D := by
  rw [c.D, if_pos (State.hazardDecisions_D_eq_stall.mp stall)]

/-- Settles O33: the hazards that ask F and D to stall decide alone, so a request to bubble changes nothing, and a
cycle keeps the register they hold. -/
theorem stallBeatsBubble : Obligations.StallBeatsBubble := by
  unfold Obligations.StallBeatsBubble
  refine fun s => ⟨fun asked _ => State.hazardDecisions_F_eq_stall.mpr asked,
    fun loadUse _ => State.hazardDecisions_D_eq_stall.mpr loadUse, fun t view running h => ?_⟩
  have cycle := step_cycleOf view running h
  exact ⟨cycle.F_of_stall, cycle.D_of_stall⟩

end Sys2Proof.Machine
end

section
/-! The statements on the encoding (30_encoding.md): reading the fields of an instruction and writing them are inverse
to each other, and so are naming the instruction of the fields and taking the fields of the instruction. -/

namespace Sys2Proof

/-! ## The parts of an encoding -/

/-- The register byte of an encoding, where the format has one (30_encoding.md R151). -/
def regByte (need : Bool) (rA rB : RegId) : List Byte :=
  if need then [(RegId.toNibble rA ++ RegId.toNibble rB : Byte)] else []

/-- The immediate of an encoding, where the format has one (30_encoding.md R152). -/
def immediate (need : Bool) (v : Word) : List Byte := if need then leBytes v else []

theorem Fields.encode_eq (fl : Fields) :
    fl.encode = (fl.icode.toNibble ++ fl.ifun : Byte) ::
      (regByte fl.icode.needRegids fl.rA fl.rB ++ immediate fl.icode.needValC fl.valC) := rfl

/-- An encoding has as many bytes as its opcode says (30_encoding.md R154). -/
theorem Fields.encode_length (fl : Fields) : fl.encode.length = fl.icode.length := by
  rw [Fields.encode_eq, ICode.length, regByte, immediate]
  cases fl.icode.needRegids <;> cases fl.icode.needValC <;> rfl

theorem encode_length (i : Instr) : (encode i).length = i.length := i.fields.encode_length

/-! ## Fields in the format of their opcode -/

/-- A field that the format of the opcode does not have holds the value fetch gives it: RNONE, or the constant 0
(40_pipeline_stages.md R213, R215). -/
structure Fields.Formatted (fl : Fields) : Prop where
  regs : fl.icode.needRegids = false → fl.rA = none ∧ fl.rB = none
  valC : fl.icode.needValC = false → fl.valC = 0#32

theorem Instr.fields_formatted (i : Instr) : i.fields.Formatted := by
  cases i <;> exact ⟨by simp [Instr.fields, ICode.needRegids], by simp [Instr.fields, ICode.needValC]⟩

/-! ## Writing, then reading -/

theorem readRegByte_regByte {need : Bool} {rA rB : RegId} (absent : need = false → rA = none ∧ rB = none)
    (rest : List Byte) : readRegByte need (regByte need rA rB ++ rest) = .ok (rA, rB, rest) := by
  cases need with
  | true => simp [readRegByte, regByte]
  | false => simp [readRegByte, regByte, absent rfl]

theorem readImmediate_immediate {need : Bool} {v : Word} (absent : need = false → v = 0#32) (rest : List Byte) :
    readImmediate need (immediate need v ++ rest) = .ok (v, rest) := by
  cases need with
  | true => simp [readImmediate, immediate, leBytes, le32_leBytes]
  | false => simp [readImmediate, immediate, absent rfl]

theorem readFields_encode {fl : Fields} (formatted : fl.Formatted) (rest : List Byte) :
    readFields (fl.encode ++ rest) = .ok (fl, rest) := by
  simp only [Fields.encode_eq, List.cons_append, List.append_assoc, readFields, hi4_append, lo4_append,
    ICode.ofNibble_toNibble, readRegByte_regByte formatted.regs, readImmediate_immediate formatted.valC]

theorem instrOf_fields (i : Instr) : instrOf i.fields = .ok i := by
  cases i <;> rfl

/-- Settles O1: the fields of an instruction are in the format of its opcode, so reading gives them back, and they name
the instruction. -/
theorem decodeInvertsEncode : Obligations.DecodeInvertsEncode := by
  unfold Obligations.DecodeInvertsEncode
  intro i rest
  simp only [decode, encode, readFields_encode i.fields_formatted, instrOf_fields]

/-! ## Reading, then writing -/

/-- A register byte that can be read is the one that is written. -/
theorem readRegByte_ok {need : Bool} {bytes rest : List Byte} {rA rB : RegId}
    (h : readRegByte need bytes = .ok (rA, rB, rest)) :
    bytes = regByte need rA rB ++ rest ∧ (need = false → rA = none ∧ rB = none) := by
  cases need with
  | true =>
    cases bytes with
    | nil => simp [readRegByte] at h
    | cons b bytes =>
      simp only [readRegByte, if_true] at h
      split at h
      · next rA' rB' hA hB =>
        simp only [Except.ok.injEq, Prod.mk.injEq] at h
        obtain ⟨rfl, rfl, rfl⟩ := h
        simp [regByte, RegId.toNibble_of_ofNibble? _ _ hA, RegId.toNibble_of_ofNibble? _ _ hB]
      · simp at h
  | false =>
    simp only [readRegByte, Bool.false_eq_true, if_false, Except.ok.injEq, Prod.mk.injEq] at h
    obtain ⟨rfl, rfl, rfl⟩ := h
    simp [regByte]

/-- An immediate that can be read is the one that is written. -/
theorem readImmediate_ok {need : Bool} {bytes rest : List Byte} {v : Word}
    (h : readImmediate need bytes = .ok (v, rest)) :
    bytes = immediate need v ++ rest ∧ (need = false → v = 0#32) := by
  cases need with
  | true =>
    simp only [readImmediate, if_true] at h
    split at h
    · simp only [Except.ok.injEq, Prod.mk.injEq] at h
      obtain ⟨rfl, rfl⟩ := h
      simp [immediate, leBytes_le32]
    · simp at h
  | false =>
    simp only [readImmediate, Bool.false_eq_true, if_false, Except.ok.injEq, Prod.mk.injEq] at h
    obtain ⟨rfl, rfl⟩ := h
    simp [immediate]

/-- Bytes whose fields can be read are the encoding of those fields. -/
theorem readFields_ok {bytes rest : List Byte} {fl : Fields} (h : readFields bytes = .ok (fl, rest)) :
    bytes = fl.encode ++ rest ∧ fl.Formatted := by
  cases bytes with
  | nil => simp [readFields] at h
  | cons b0 bytes =>
    simp only [readFields] at h
    split at h
    · simp at h
    next rA rB rest1 hReg =>
      split at h
      · simp at h
      next v rest2 hImm =>
        simp only [Except.ok.injEq, Prod.mk.injEq] at h
        obtain ⟨rfl, rfl⟩ := h
        obtain ⟨rfl, absentRegs⟩ := readRegByte_ok hReg
        obtain ⟨rfl, absentValC⟩ := readImmediate_ok hImm
        exact ⟨by simp [Fields.encode_eq], absentRegs, absentValC⟩

/-- The move of a condition has the fields of the register-move row (30_encoding.md R162, R164). -/
theorem moveInstr_fields (c : Cond) (rA rB : RegId) :
    (moveInstr c rA rB).fields = ⟨.irrmovl, c.toNibble, rA, rB, 0#32⟩ := by cases c <;> rfl

theorem aluInstr_fields (f : AluFun) (rA rB : RegId) :
    (aluInstr f rA rB).fields = ⟨.iopl, f.toNibble, rA, rB, 0#32⟩ := by cases f <;> rfl

theorem jumpInstr_fields (c : Cond) (dest : Word) :
    (jumpInstr c dest).fields = ⟨.ijxx, c.toNibble, none, none, dest⟩ := by cases c <;> rfl

/-- Fields in the format of their opcode are those of the instruction they stand for. -/
theorem fields_of_instrOf {fl : Fields} {i : Instr} (formatted : fl.Formatted) (h : instrOf fl = .ok i) :
    i.fields = fl := by
  obtain ⟨icode, ifun, rA, rB, valC⟩ := fl
  obtain ⟨regs, imm⟩ := formatted
  dsimp only at regs imm
  cases icode <;> simp only [instrOf] at h
  case irrmovl =>
    split at h
    · next c hc =>
      obtain rfl := Except.ok.inj h
      rw [moveInstr_fields, Cond.toNibble_of_ofNibble? _ _ hc, imm rfl]
    · simp at h
  case iopl =>
    split at h
    · next f hf =>
      obtain rfl := Except.ok.inj h
      rw [aluInstr_fields, AluFun.toNibble_of_ofNibble? _ _ hf, imm rfl]
    · simp at h
  case ijxx =>
    split at h
    · next c hc =>
      obtain rfl := Except.ok.inj h
      rw [jumpInstr_fields, Cond.toNibble_of_ofNibble? _ _ hc, (regs rfl).1, (regs rfl).2]
    · simp at h
  case ihalt | inop | iret =>
    obtain rfl := Except.ok.inj h
    rw [imm rfl, (regs rfl).1, (regs rfl).2]; rfl
  case iirmovl | irmmovl | imrmovl =>
    obtain rfl := Except.ok.inj h
    rfl
  case icall =>
    obtain rfl := Except.ok.inj h
    rw [(regs rfl).1, (regs rfl).2]; rfl
  case ipushl | ipopl =>
    obtain rfl := Except.ok.inj h
    rw [imm rfl]; rfl
  case invC | invD | invE | invF => simp at h

/-- Bytes that decode hold fields in their format that name the instruction. -/
theorem decode_ok {bytes rest : List Byte} {i : Instr} (h : decode bytes = .ok (i, rest)) :
    readFields bytes = .ok (i.fields, rest) := by
  unfold decode at h
  split at h
  · simp at h
  next fl rest' hRead =>
    split at h
    · simp at h
    next j hInstr =>
      simp only [Except.ok.injEq, Prod.mk.injEq] at h
      obtain ⟨rfl, rfl⟩ := h
      rw [hRead, fields_of_instrOf (readFields_ok hRead).2 hInstr]

/-- Settles O2: the fields of the bytes are those of the instruction, and bytes with fields are their encoding. -/
theorem encodeInvertsDecode : Obligations.EncodeInvertsDecode := by
  unfold Obligations.EncodeInvertsDecode
  intro bytes i rest h
  obtain ⟨rfl, -⟩ := readFields_ok (decode_ok h)
  exact ⟨rfl, by rw [List.length_append, ← encode_length]; rfl⟩

/-- Settles O3: the decoder, run on each word. -/
theorem writtenOutWordsDecode : Obligations.WrittenOutWordsDecode := by
  unfold Obligations.WrittenOutWordsDecode
  exact ⟨rfl, rfl, rfl, rfl, rfl, rfl, rfl, rfl, rfl, rfl, rfl⟩

end Sys2Proof
end

section
/-! The rule of a data read (20_memory.md), and what memory keeps along a step. -/

namespace Sys2Proof.Machine

/-! ## Reads -/

/-- A read of a readable word gives the word, with the effect of a read (20_memory.md R110). -/
theorem Memory.read_of_readable {m : Memory} {a v : Word} (h : Readable m a v) :
    (m.read a).ok = true ∧ (m.read a).value = v ∧ ReadFrom m (m.read a).mem a v := by
  rcases m.read_cases a with ⟨w, hit, e⟩ | ⟨miss, _, _, e⟩ | ⟨miss, outside, e⟩
  · rcases h with word | ⟨miss, _⟩
    · obtain rfl : w = v := Option.some.inj (hit.symm.trans word)
      rw [e]
      exact ⟨rfl, rfl, rfl, fun _ => rfl, fun _ _ => rfl, hit, fun miss => by simp [miss] at hit⟩
    · simp [miss] at hit
  · rcases h with word | ⟨_, _, _, rfl⟩
    · simp [miss] at word
    · rw [e]
      exact ⟨rfl, rfl, rfl, fun hit => absurd miss hit, fun k hk => by simp [hk.symm], by simp,
        fun _ k => mem_insertAddr ..⟩
  · rcases h with word | ⟨_, h0, h4, _⟩
    · simp [miss] at word
    · omega

theorem Memory.read_of_unreadable {m : Memory} {a : Word} (h : Unreadable m a) : m.read a = ⟨false, 0#32, m⟩ := by
  obtain ⟨miss, outside⟩ := h
  rcases m.read_cases a with ⟨w, hit, _⟩ | ⟨_, h0, h4, _⟩ | ⟨_, _, e⟩
  · simp [miss] at hit
  · omega
  · exact e

/-- Settles O46, by the three outcomes of a read. -/
theorem dataReadRule : Obligations.DataReadRule := by
  unfold Obligations.DataReadRule
  exact fun m a => ⟨fun v => Memory.read_of_readable, Memory.read_of_unreadable⟩

/-- A read changes what no read gives: it only moves a word of the image to WMem. -/
theorem Memory.peek_read (m : Memory) (a b : Word) : (m.read a).mem.peek b = m.peek b := by
  rcases m.read_cases a with ⟨_, _, e⟩ | ⟨miss, h0, h4, e⟩ | ⟨_, _, e⟩
  · rw [e]
  · rw [e, Memory.peek_eq, Memory.peek_eq]
    by_cases hab : a = b
    · subst hab
      simp [miss, h0.not_gt, h4.not_gt]
    · simp [toNat_ne_of_ne hab]
  · rw [e]

/-! ## What memory keeps along a step -/

theorem MemoryOf.wf {m n : Memory} (h : MemoryOf m n) (wf : m.wf = true) : n.wf = true := by
  cases h with
  | same e => rwa [e]
  | read a e => rw [e]; exact m.read_wf a wf
  | write a v e => rw [e]; exact m.write_wf a v wf

/-- A read miss marks an address it has just pulled from the image. -/
theorem Memory.readProtected_read {m : Memory} (h : m.readProtected) (a : Word) : (m.read a).mem.readProtected := by
  rcases m.read_cases a with ⟨_, _, e⟩ | ⟨_, _, _, e⟩ | ⟨_, _, e⟩
  · rwa [e]
  · rw [e]
    intro k hk
    by_cases hak : a.toNat = k
    · simp [hak]
    · simpa [hak] using h k (((mem_insertAddr _ _ _).mp hk).resolve_left (Ne.symm hak))
  · rwa [e]

/-- A write never reaches a marked address. -/
theorem Memory.readProtected_write {m : Memory} (h : m.readProtected) (a v : Word) :
    (m.write a v).mem.readProtected := by
  rcases m.write_cases a v with ⟨_, e⟩ | ⟨writable, e⟩
  · rwa [e]
  · rw [e]
    intro k hk
    have hak : a.toNat ≠ k := fun hak => writable.2 (hak ▸ hk)
    simpa [hak] using h k hk

theorem MemoryOf.readProtected {m n : Memory} (h : MemoryOf m n) (hm : m.readProtected) : n.readProtected := by
  cases h with
  | same e => rwa [e]
  | read a e => rw [e]; exact Memory.readProtected_read hm a
  | write a v e => rw [e]; exact Memory.readProtected_write hm a v

end Sys2Proof.Machine
end

section
/-! What the meanings of the instructions leave, in the instruction view: how they complete, how they stop, and what
they leave alone. -/

namespace Sys2Proof.Machine

/-! ## Words -/

theorem wrap32_toInt (a : Word) : wrap32 a.toInt = a := BitVec.ofInt_toInt

theorem wrap32_add (a b : Word) : wrap32 (a.toInt + b.toInt) = a + b := by
  simp only [wrap32, BitVec.ofInt_add, BitVec.ofInt_toInt]

theorem wrap32_sub (a b : Word) : wrap32 (a.toInt - b.toInt) = a - b := by
  apply BitVec.eq_of_toInt_eq
  rw [wrap32, BitVec.toInt_ofInt, BitVec.toInt_sub]

theorem wrap32_add_four (a : Word) : wrap32 (a.toInt + 4) = a + 4#32 := wrap32_add a 4#32

theorem wrap32_sub_four (a : Word) : wrap32 (a.toInt - 4) = a - 4#32 := wrap32_sub a 4#32

/-! ## How an instruction retires -/

theorem SameMachine.trans {s t u : State} (h : SameMachine s t) (k : SameMachine t u) : SameMachine s u := by
  obtain ⟨⟨d, e, m, w⟩, ⟨dO, eO, mO⟩, ⟨f, fO⟩, ⟨c, l, x⟩, p, v⟩ := h
  obtain ⟨⟨d', e', m', w'⟩, ⟨dO', eO', mO'⟩, ⟨f', fO'⟩, ⟨c', l', x'⟩, p', v'⟩ := k
  refine ⟨⟨d'.trans d, e'.trans e, m'.trans m, w'.trans w⟩, ⟨dO'.trans dO, eO'.trans eO, mO'.trans mO⟩,
    ⟨f'.trans f, ?_⟩, ⟨c'.trans c, l'.trans l, x'.trans x⟩, p'.trans p, v'.trans v⟩
  rw [fO', fO]

theorem State.commit_sameMachine (s : State) (st : Status) (dE : RegId) (vE : Word) (dM : RegId) (vM : Word) :
    SameMachine s (s.commit st dE vE dM vM) := by
  constructor <;> simp

/-- Registers, flags and memory set, and the next address: the instruction has completed. -/
theorem completed_retireTo (s : State) (cc : CC) (m : Memory) (dE : RegId) (vE : Word) (dM : RegId) (vM pc : Word) :
    Completed s (((((s.setCC cc).setMem m).writeReg dE vE).writeReg dM vM).retireTo pc) pc :=
  ⟨rfl, State.retireTo_halted _ _, ⟨rfl, rfl⟩,
    ⟨⟨rfl, rfl, rfl, rfl⟩, ⟨rfl, rfl, rfl⟩, ⟨rfl, rfl⟩, ⟨rfl, rfl, rfl⟩, rfl, rfl⟩, rfl⟩

/-- A write-back with a stopping status, and the status taken: the instruction has stopped the machine. -/
theorem stopped_takeStatus (s : State) {st : Status} (faulty : st.faulty = true) (dE : RegId) (vE : Word) (dM : RegId)
    (vM : Word) : Stopped s ((s.commit st dE vE dM vM).takeStatus st) st where
  stat := by
    have : st ≠ .bubble := by rintro rfl; simp [Status.faulty] at faulty
    simp [this]
  halted := by simp [faulty]
  flags := by simp
  memory := by simp
  next := by simp [State.seqPC]
  rest := (s.commit_sameMachine st dE vE dM vM).trans
    ⟨⟨rfl, rfl, rfl, rfl⟩, ⟨rfl, rfl, rfl⟩, ⟨rfl, rfl⟩, ⟨rfl, rfl, rfl⟩, rfl, rfl⟩

/-- Under the reference FAULT_WB a stop writes no register. -/
theorem stopped_regs (s : State) {st : Status} (faulty : st.faulty = true) (dE : RegId) (vE : Word) (dM : RegId)
    (vM : Word) (suppress : s.cfg.faultWB = .suppress) : ((s.commit st dE vE dM vM).takeStatus st).regs = s.regs := by
  rw [s.commit_suppress st dE vE dM vM suppress faulty, State.takeStatus_regs]

/-- Every instruction that has a next state has completed or has stopped the machine. -/
theorem ExecOf.completed_or_stopped {i : Instr} {s t : State} (h : ExecOf i s t) :
    (∃ pc, Completed s t pc) ∨ ∃ st : Status, st.faulty = true ∧ Stopped s t st := by
  cases h with
  | halts ifun hi ht => exact .inr ⟨.halt, rfl, ht ▸ stopped_takeStatus s rfl ..⟩
  | retires cc m ok dE vE dM vM pc flags dstE dstM access accessFlags ht =>
    cases ok with
    | true => exact .inl ⟨pc, ht ▸ completed_retireTo s cc m dE vE dM vM pc⟩
    | false =>
      have hm : m = s.mem := by
        rcases access with ⟨a, _, _, failed, e⟩ | ⟨a, v, _, _, failed, e⟩ | ⟨_, _, failed, _⟩
        · rw [e, s.mem.read_failed a failed.symm]
        · rw [e, s.mem.write_failed a v failed.symm]
        · simp at failed
      obtain rfl := accessFlags rfl
      obtain rfl := hm
      exact .inr ⟨.addressError, rfl, ht ▸ stopped_takeStatus s rfl ..⟩

theorem ExecOf.sameMachine {i : Instr} {s t : State} (h : ExecOf i s t) : SameMachine s t := by
  rcases h.completed_or_stopped with ⟨_, c⟩ | ⟨_, _, c⟩
  · exact c.rest
  · exact c.rest

/-! ## Used sources -/

theorem usingSource_eq (c : ICode) (r : RegId) (t : State) :
    usingSource c r (.next t) = if [r].all Option.isSome then .next t else .refused (.noneSource c) := by
  cases r <;> rfl

theorem usingSources_eq (c : ICode) (a b : RegId) (t : State) :
    usingSources c a b (.next t) = if [a, b].all Option.isSome then .next t else .refused (.noneSource c) := by
  cases a <;> cases b <;> rfl

/-- An instruction has a next state when it is well formed, and is refused for its source when it is not. -/
theorem exec_eq (i : Instr) (s : State) :
    ∃ t, exec i s = if i.wellFormed then .next t else .refused (.noneSource i.fields.icode) := by
  cases i with
  | halt | nop | irmovl | jmp | jle | jl | je | jne | jge | jg | call | ret | popl => exact ⟨_, rfl⟩
  | rrmovl | cmovle | cmovl | cmove | cmovne | cmovge | cmovg | mrmovl | pushl => exact ⟨_, usingSource_eq ..⟩
  | rmmovl | addl | subl | andl | xorl => exact ⟨_, usingSources_eq ..⟩

/-- Settles O20: a meaning is refused exactly where it would use the value of a RNONE source. -/
theorem admittedInstructionsAlwaysComplete : Obligations.AdmittedInstructionsAlwaysComplete := by
  unfold Obligations.AdmittedInstructionsAlwaysComplete
  intro i s
  obtain ⟨t, e⟩ := exec_eq i s
  exact ⟨fun wf => ⟨t, by rw [e, if_pos wf]⟩, fun wf => by rw [e, if_neg (by simp [wf])]⟩

/-- Settles O21: no meaning has an ignored field among its inputs. -/
theorem ignoredFieldsHaveNoEffect : Obligations.IgnoredFieldsHaveNoEffect := by
  unfold Obligations.IgnoredFieldsHaveNoEffect
  exact fun f g x y r q w => ⟨rfl, rfl, rfl, rfl, rfl, rfl, rfl, rfl, rfl⟩

/-! ## halt and nop -/

/-- Settles O7: halt writes no register, and nop sets only the next address. -/
theorem haltStopsAndNopAdvances : Obligations.HaltStopsAndNopAdvances := by
  unfold Obligations.HaltStopsAndNopAdvances
  refine fun ifun s => ⟨⟨_, rfl, stopped_takeStatus s rfl .., ?_⟩,
    _, rfl, rfl, rfl, rfl, completed_retireTo s s.cc s.mem none 0#32 none 0#32 _⟩
  exact RegFile.ext_get fun r => s.commit_get _ _ _ _ _ r (by simp) (by simp)

/-! ## Conditions -/

theorem condHolds_ge (cc : CC) : condHolds .ge cc = (cc.sf == cc.ovf) := by
  obtain ⟨z, s, o⟩ := cc; cases s <;> cases o <;> rfl

theorem condHolds_g (cc : CC) : condHolds .g cc = ((cc.sf == cc.ovf) && !cc.zf) := by
  obtain ⟨z, s, o⟩ := cc; cases s <;> cases o <;> cases z <;> rfl

/-- The register-move row under one condition (42_moves.md R320). -/
theorem movesRegister_of_moveWhen {i : RegId → RegId → Instr} (c : Cond) {taken : CC → Bool}
    (meaning : ∀ rA rB s, exec (i rA rB) s = s.moveWhen c rA rB) (cond : ∀ cc, condHolds c cc = taken cc) :
    MovesRegister i taken := by
  intro r rB s
  refine ⟨_, meaning _ _ _, ?_, rfl, rfl,
    completed_retireTo s s.cc s.mem (if condHolds c s.cc then rB else none) _ none 0#32 _⟩
  rw [← cond s.cc]
  cases condHolds c s.cc <;> simp

/-- Settles O8: each move is the register-move row under its condition. -/
theorem movesFollowTheirConditions : Obligations.MovesFollowTheirConditions := by
  unfold Obligations.MovesFollowTheirConditions
  exact ⟨movesRegister_of_moveWhen .always (fun _ _ _ => rfl) fun _ => rfl,
    movesRegister_of_moveWhen .le (fun _ _ _ => rfl) fun _ => rfl,
    movesRegister_of_moveWhen .l (fun _ _ _ => rfl) fun _ => rfl,
    movesRegister_of_moveWhen .e (fun _ _ _ => rfl) fun _ => rfl,
    movesRegister_of_moveWhen .ne (fun _ _ _ => rfl) fun _ => rfl,
    movesRegister_of_moveWhen .ge (fun _ _ _ => rfl) condHolds_ge,
    movesRegister_of_moveWhen .g (fun _ _ _ => rfl) condHolds_g⟩

/-- The jump row under one condition (44_control.md R369). -/
theorem jumpsWhen_of_jumpWhen {i : Word → Instr} (c : Cond) {taken : CC → Bool}
    (meaning : ∀ dest s, exec (i dest) s = s.jumpWhen c dest) (cond : ∀ cc, condHolds c cc = taken cc) :
    JumpsWhen i taken := by
  intro dest s
  refine ⟨_, meaning _ _, rfl, rfl, rfl, ?_⟩
  rw [← cond s.cc]
  exact completed_retireTo s s.cc s.mem none 0#32 none 0#32 _

/-- Settles O12: each jump is the jump row under its condition. -/
theorem jumpsFollowTheirConditions : Obligations.JumpsFollowTheirConditions := by
  unfold Obligations.JumpsFollowTheirConditions
  exact ⟨jumpsWhen_of_jumpWhen .always (fun _ _ => rfl) fun _ => rfl,
    jumpsWhen_of_jumpWhen .le (fun _ _ => rfl) fun _ => rfl,
    jumpsWhen_of_jumpWhen .l (fun _ _ => rfl) fun _ => rfl,
    jumpsWhen_of_jumpWhen .e (fun _ _ => rfl) fun _ => rfl,
    jumpsWhen_of_jumpWhen .ne (fun _ _ => rfl) fun _ => rfl,
    jumpsWhen_of_jumpWhen .ge (fun _ _ => rfl) condHolds_ge,
    jumpsWhen_of_jumpWhen .g (fun _ _ => rfl) condHolds_g⟩

/-- Settles O38: the formulas over the flags, and the codes that name them. -/
theorem conditionFormulas : Obligations.ConditionFormulas := by
  unfold Obligations.ConditionFormulas
  refine ⟨fun cc => ⟨rfl, by simp [condHolds], by simp [condHolds], Iff.rfl, by simp [condHolds],
    by simp [condHolds_ge], by simp [condHolds_g]⟩, rfl, rfl, rfl, rfl, rfl, rfl, rfl, by decide⟩

/-! ## Moves of constants, arithmetic -/

/-- Settles O9: the constant goes to the ALU destination. -/
theorem irmovlLoadsTheConstant : Obligations.IrmovlLoadsTheConstant := by
  unfold Obligations.IrmovlLoadsTheConstant
  exact fun ifun rA rB v s => ⟨_, rfl, fun r => by simp, rfl, rfl,
    completed_retireTo s s.cc s.mem rB v none 0#32 _⟩

/-- The OPl row: what an arithmetic instruction with registers for sources leaves (43_alu_ops.md R344). -/
theorem aluOp_completes (s : State) (f : AluFun) (a b : Reg) : ∃ t,
    s.aluOp f (some a) (some b) = .next t ∧
      t.regs = s.regs.set b (wrap32 (aluPre f (s.regs.get b) (s.regs.get a))) ∧
      t.cc = flagsOf (aluPre f (s.regs.get b) (s.regs.get a)) ∧ t.mem = s.mem ∧ Completed s t (s.seqPC + 2#32) :=
  ⟨_, rfl, rfl, rfl, rfl, completed_retireTo s (flagsOf (aluPre f (s.regs.get b) (s.regs.get a))) s.mem (some b) _ none
    0#32 _⟩

theorem computesWithFlags_of_aluOp {i : RegId → RegId → Instr} (f : AluFun)
    (meaning : ∀ rA rB s, exec (i rA rB) s = s.aluOp f rA rB) : ComputesWithFlags i (aluPre f) := by
  intro a b s
  obtain ⟨t, run, regs, cc, mem, done⟩ := aluOp_completes s f a b
  refine ⟨t, (meaning _ _ _).trans run, regs, ?_, ?_, ?_, mem, done⟩
  · simp [cc, flagsOf]
  · simp [cc, flagsOf]
  · simp only [cc, flagsOf, decide_eq_true_eq]
    omega

/-- Settles O10: addl and subl are the OPl row with the exact sum and difference. -/
theorem addSubComputeWithFlags : Obligations.AddSubComputeWithFlags := by
  unfold Obligations.AddSubComputeWithFlags
  exact ⟨computesWithFlags_of_aluOp .add fun _ _ _ => rfl, computesWithFlags_of_aluOp .sub fun _ _ _ => rfl⟩

/-- The flags of a result that is a word: it never overflows (43_alu_ops.md R345). -/
theorem flagsOf_toInt (a : Word) : flagsOf a.toInt = ⟨decide (a = 0#32), a.msb, false⟩ := by
  have zero : a.toInt = 0 ↔ a = 0#32 := ⟨fun h => BitVec.eq_of_toInt_eq h, by rintro rfl; rfl⟩
  have negative : decide (a.toInt < 0) = a.msb := BitVec.msb_eq_toInt.symm
  have low : -2147483648 ≤ a.toInt := BitVec.le_toInt a
  have high : a.toInt < 2147483648 := BitVec.toInt_lt
  simp only [flagsOf, zero, negative, CC.mk.injEq, true_and, decide_eq_false_iff_not]
  omega

/-- Settles O11: andl and xorl are the OPl row with a result that is a word. -/
theorem andXorComputeWithFlags : Obligations.AndXorComputeWithFlags := by
  unfold Obligations.AndXorComputeWithFlags
  intro a b s
  obtain ⟨t, run, regs, cc, mem, done⟩ := aluOp_completes s .and a b
  obtain ⟨t', run', regs', cc', mem', done'⟩ := aluOp_completes s .xor a b
  refine ⟨⟨t, run, ?_, ?_, mem, done⟩, t', run', ?_, ?_, mem', done'⟩
  · rw [regs, aluPre, wrap32_toInt]
  · rw [cc, aluPre, flagsOf_toInt]
  · rw [regs', aluPre, wrap32_toInt]
  · rw [cc', aluPre, flagsOf_toInt, BitVec.msb_xor]
    simp [BitVec.xor_eq_zero_iff]

/-! ## Data accesses -/

/-- A store to a writable address completes. -/
theorem store_completes (s : State) {a : Word} (h : Writable s.mem a) (v : Word) (dE : RegId) (vE pc : Word) : ∃ t,
    (s.setMem (s.mem.write a v).mem).retireAccess (s.mem.write a v).ok dE vE none 0#32 pc = t ∧
      StoredAt s.mem t.mem a v ∧ t.regs = s.regs.write dE vE ∧ t.cc = s.cc ∧ Completed s t pc := by
  obtain ⟨ok, stored⟩ := Memory.write_storedAt h v
  rw [ok]
  exact ⟨_, rfl, stored, rfl, rfl, completed_retireTo s s.cc _ dE vE none 0#32 pc⟩

/-- A load from a readable address completes, the memory value written last and no destination but its own known. -/
theorem load_completes (s : State) {a v : Word} (h : Readable s.mem a v) (dE : RegId) (vE : Word) (dM : RegId)
    (pc : Word → Word) : ∃ t,
    (s.setMem (s.mem.read a).mem).retireAccess (s.mem.read a).ok dE vE dM (s.mem.read a).value (pc (s.mem.read a).value) =
        t ∧
      ReadFrom s.mem t.mem a v ∧ t.regs = (s.regs.write dE vE).write dM v ∧ t.cc = s.cc ∧ Completed s t (pc v) := by
  obtain ⟨ok, rfl, effect⟩ := Memory.read_of_readable h
  rw [ok]
  exact ⟨_, rfl, effect, rfl, rfl, completed_retireTo s s.cc _ dE vE dM _ _⟩

/-- Settles O13: rmmovl is a store with no destination. -/
theorem rmmovlStoresTheRegister : Obligations.RmmovlStoresTheRegister := by
  unfold Obligations.RmmovlStoresTheRegister
  intro ifun a b d s writable
  rw [wrap32_add] at *
  obtain ⟨t, run, stored, regs, cc, done⟩ :=
    store_completes s writable (s.regs.get a) none 0#32 (s.seqPC + 6#32)
  exact ⟨t, congrArg Host.Outcome.next run, stored, regs, cc, done⟩

/-- Settles O14: mrmovl is a load to `rA`. -/
theorem mrmovlLoadsTheWord : Obligations.MrmovlLoadsTheWord := by
  unfold Obligations.MrmovlLoadsTheWord
  intro ifun rA b d v s readable
  rw [wrap32_add] at *
  obtain ⟨t, run, effect, regs, cc, done⟩ := load_completes s readable none 0#32 rA fun _ => s.seqPC + 6#32
  exact ⟨t, congrArg Host.Outcome.next run, fun r => by simp [regs], effect, cc, done⟩

/-- Settles O15: call is a store of the return address that moves `%esp`. -/
theorem callPushesTheReturnAddress : Obligations.CallPushesTheReturnAddress := by
  unfold Obligations.CallPushesTheReturnAddress
  intro ifun dest s writable
  rw [wrap32_sub_four] at *
  obtain ⟨t, run, stored, regs, cc, done⟩ :=
    store_completes s writable (s.seqPC + 5#32) espId (s.regs.get .esp - 4#32) dest
  exact ⟨t, congrArg Host.Outcome.next run, stored, fun r => by simp [regs, espId, eq_comm], cc, done⟩

/-- Settles O16: ret is a load that moves `%esp` and goes on at the word it has read. -/
theorem retPopsTheReturnAddress : Obligations.RetPopsTheReturnAddress := by
  unfold Obligations.RetPopsTheReturnAddress
  intro ifun v s readable
  rw [wrap32_add_four]
  obtain ⟨t, run, effect, regs, cc, done⟩ := load_completes s readable espId (s.regs.get .esp + 4#32) none id
  exact ⟨t, congrArg Host.Outcome.next run, effect, fun r => by simp [regs, espId, eq_comm], cc, done⟩

/-- Settles O17: pushl is a store of the value `rA` has before `%esp` moves. -/
theorem pushlStoresTheOldValue : Obligations.PushlStoresTheOldValue := by
  unfold Obligations.PushlStoresTheOldValue
  intro ifun a rB s writable
  rw [wrap32_sub_four] at *
  obtain ⟨t, run, stored, regs, cc, done⟩ :=
    store_completes s writable (s.regs.get a) espId (s.regs.get .esp - 4#32) (s.seqPC + 2#32)
  exact ⟨t, congrArg Host.Outcome.next run, stored, fun r => by simp [regs, espId, eq_comm], cc, done⟩

/-- Settles O18: popl is a load to `rA` that moves `%esp` before the word is written. -/
theorem poplLoadsTheStackWord : Obligations.PoplLoadsTheStackWord := by
  unfold Obligations.PoplLoadsTheStackWord
  intro ifun rA rB v s readable
  rw [wrap32_add_four]
  obtain ⟨t, run, effect, regs, cc, done⟩ :=
    load_completes s readable espId (s.regs.get .esp + 4#32) rA fun _ => s.seqPC + 2#32
  exact ⟨t, congrArg Host.Outcome.next run, effect, fun r => by simp [regs, espId, eq_comm], cc, done⟩

/-! ## Failed accesses -/

/-- An instruction whose one data access fails stops with AddressError. -/
theorem ExecOf.stopped_of_failed {i : Instr} {s t : State} (h : ExecOf i s t) {a : Word}
    (failed : (storeAddr i s = some a ∧ ¬ Writable s.mem a) ∨ (loadAddr i s = some a ∧ Unreadable s.mem a)) :
    Stopped s t .addressError ∧ (s.cfg.faultWB = .suppress → t.regs = s.regs) := by
  cases h with
  | halts ifun hi ht =>
    subst hi
    simp [storeAddr, loadAddr] at failed
  | retires cc m ok dE vE dM vM pc flags dstE dstM access accessFlags ht =>
    have outcome : ok = false ∧ m = s.mem := by
      rcases failed with ⟨store, bad⟩ | ⟨load, bad⟩
      · rcases access with ⟨b, _, none, _⟩ | ⟨b, v, store', _, rfl, rfl⟩ | ⟨_, none, _⟩
        · simp [store] at none
        · obtain rfl := Option.some.inj (store.symm.trans store')
          simp [Memory.write_of_not_writable bad]
        · simp [store] at none
      · rcases access with ⟨b, load', _, rfl, rfl⟩ | ⟨b, v, _, none, _⟩ | ⟨none, _⟩
        · obtain rfl := Option.some.inj (load.symm.trans load')
          simp [Memory.read_of_unreadable bad]
        · simp [load] at none
        · simp [load] at none
    obtain ⟨rfl, rfl⟩ := outcome
    obtain rfl := accessFlags rfl
    exact ⟨ht ▸ stopped_takeStatus s rfl .., fun suppress => ht ▸ stopped_regs s rfl _ _ _ _ suppress⟩

/-- Settles O19: an admitted instruction has a next state, and its access decides how it ends. -/
theorem failedAccessStopsTheMachine : Obligations.FailedAccessStopsTheMachine := by
  unfold Obligations.FailedAccessStopsTheMachine
  intro i s a wf failed
  obtain ⟨t, run⟩ := (admittedInstructionsAlwaysComplete i s).1 wf
  exact ⟨t, run, (exec_cases i s t run).stopped_of_failed failed⟩

/-! ## Frames -/

/-- Settles O22: what is written back goes to the destinations, whether the instruction completes or stops. -/
theorem onlyDestinationsChange : Obligations.OnlyDestinationsChange := by
  unfold Obligations.OnlyDestinationsChange
  intro i s t r run other
  cases exec_cases i s t run with
  | halts ifun hi ht =>
    rw [ht]
    exact s.commit_get _ _ _ _ _ r (by simp) (by simp)
  | retires cc m ok dE vE dM vM pc flags dstE dstM access accessFlags ht =>
    rw [ht]
    exact (((s.setCC cc).setMem m).retireAccess_frame ok dE vE dM vM pc).2.2 r (fun hE => other (dstE r hE))
      fun hM => other (dstM r hM)

/-- What an instruction does to memory: one read, one write, or nothing. -/
theorem ExecOf.mem_cases {i : Instr} {s t : State} (h : ExecOf i s t) :
    (∃ a, loadAddr i s = some a ∧ t.mem = (s.mem.read a).mem) ∨
    (∃ a v, storeAddr i s = some a ∧ loadAddr i s = none ∧ t.mem = (s.mem.write a v).mem) ∨
    (loadAddr i s = none ∧ storeAddr i s = none ∧ t.mem = s.mem) := by
  cases h with
  | halts ifun hi ht =>
    subst hi
    exact .inr (.inr ⟨rfl, rfl, by simp [ht]⟩)
  | retires cc m ok dE vE dM vM pc flags dstE dstM access accessFlags ht =>
    have hm : t.mem = m := by
      rw [ht, (((s.setCC cc).setMem m).retireAccess_frame ok dE vE dM vM pc).2.1, State.setMem_mem]
    rw [hm]
    rcases access with ⟨a, load, _, _, e⟩ | ⟨a, v, store, none, _, e⟩ | ⟨load, store, _, e⟩
    · exact .inl ⟨a, load, e⟩
    · exact .inr (.inl ⟨a, v, store, none, e⟩)
    · exact .inr (.inr ⟨load, store, e⟩)

/-- Settles O23: a read changes what no read gives, and a write changes it at its own address only. -/
theorem onlyTheStoredWordChanges : Obligations.OnlyTheStoredWordChanges := by
  unfold Obligations.OnlyTheStoredWordChanges
  intro i s t run
  rcases (exec_cases i s t run).mem_cases with ⟨a, load, e⟩ | ⟨a, v, store, _, e⟩ | ⟨_, _, e⟩
  · rw [e]
    exact ⟨fun b _ => s.mem.peek_read a b, Memory.read_image .., by simp [load], by simp [load]⟩
  · rw [e]
    exact ⟨fun b other => s.mem.peek_write_ne v fun hab => other (hab ▸ store), Memory.write_image ..,
      fun _ => Memory.write_readSet .., by simp [store]⟩
  · rw [e]
    exact ⟨fun _ _ => rfl, rfl, fun _ => rfl, fun _ _ => rfl⟩

/-- Only addl, subl, andl and xorl write the flags. -/
theorem ExecOf.cc_eq {i : Instr} {s t : State} (h : ExecOf i s t) (noFlags : writesFlags i = false) : t.cc = s.cc := by
  cases h with
  | halts ifun hi ht => simp [ht]
  | retires cc m ok dE vE dM vM pc flags dstE dstM access accessFlags ht =>
    rw [ht, (((s.setCC cc).setMem m).retireAccess_frame ok dE vE dM vM pc).1]
    exact flags noFlags

/-- Settles O24: an instruction that leaves Ok has completed, and the frame is part of completing and of stopping. -/
theorem instructionsLeaveTheMachineAlone : Obligations.InstructionsLeaveTheMachineAlone := by
  unfold Obligations.InstructionsLeaveTheMachineAlone
  intro i s t run
  have what := exec_cases i s t run
  refine ⟨what.cc_eq, what.sameMachine, fun ok => ?_⟩
  rcases what.completed_or_stopped with ⟨pc, done⟩ | ⟨st, faulty, stop⟩
  · exact ⟨done.free, done.halted⟩
  · rw [← stop.stat, ok] at faulty
    simp [Status.faulty] at faulty

end Sys2Proof.Machine
end

section
/-! The statements on what bytes that do not decode give (30_encoding.md section 3), and on the fetch of both views
(40_pipeline_stages.md section 2, 60_exceptions.md). -/

namespace Sys2Proof

/-! ## Codes out of range -/

theorem RegId.ofNibble?_eq_none {n : Nibble} : RegId.ofNibble? n = none ↔ 9 ≤ n.toNat := by
  revert n; decide

theorem RegId.exists_ofNibble? {n : Nibble} (h : n.toNat ≤ 8) : ∃ r, RegId.ofNibble? n = some r :=
  Option.ne_none_iff_exists'.mp fun none => by have := RegId.ofNibble?_eq_none.mp none; omega

theorem AluFun.ofNibble?_eq_none {n : Nibble} : AluFun.ofNibble? n = none ↔ 4 ≤ n.toNat := by
  revert n; decide

theorem Cond.ofNibble?_eq_none {n : Nibble} : Cond.ofNibble? n = none ↔ 7 ≤ n.toNat := by
  revert n; decide

theorem ICode.valid_ofNibble_eq_false {n : Nibble} : (ICode.ofNibble n).valid = false ↔ 0xC ≤ n.toNat := by
  revert n; decide

/-- An invalid opcode has neither a register byte nor an immediate (30_encoding.md R170). -/
theorem ICode.needs_of_not_valid {c : ICode} (h : c.valid = false) : c.needRegids = false ∧ c.needValC = false := by
  revert h; cases c <;> decide

/-! ## Reading the fields, format by format -/

/-- A register nibble out of range makes the fields unreadable, used or not (40_pipeline_stages.md R214). -/
theorem readFields_badRegister {b0 b1 : Byte} (need : (ICode.ofNibble (hi4 b0)).needRegids = true)
    (bad : 9 ≤ (hi4 b1).toNat ∨ 9 ≤ (lo4 b1).toNat) (rest : List Byte) :
    readFields (b0 :: b1 :: rest) = .error .badRegisterId := by
  rw [← RegId.ofNibble?_eq_none, ← RegId.ofNibble?_eq_none] at bad
  have : readRegByte true (b1 :: rest) = .error .badRegisterId := by
    simp only [readRegByte, if_true]
    split
    · rcases bad with bad | bad <;> simp_all
    · rfl
  simp only [readFields, need, this]

/-- The opcode byte alone (30_encoding.md R150). -/
theorem readFields_opcodeOnly {b0 : Byte} (noRegids : (ICode.ofNibble (hi4 b0)).needRegids = false)
    (noValC : (ICode.ofNibble (hi4 b0)).needValC = false) (rest : List Byte) :
    readFields (b0 :: rest) = .ok (⟨ICode.ofNibble (hi4 b0), lo4 b0, none, none, 0#32⟩, rest) := by
  simp only [readFields, noRegids, noValC, readRegByte, readImmediate, Bool.false_eq_true, if_false]

/-- The opcode byte and a register byte (30_encoding.md R151). -/
theorem readFields_registers {b0 b1 : Byte} {rA rB : RegId} (regids : (ICode.ofNibble (hi4 b0)).needRegids = true)
    (noValC : (ICode.ofNibble (hi4 b0)).needValC = false) (hA : RegId.ofNibble? (hi4 b1) = some rA)
    (hB : RegId.ofNibble? (lo4 b1) = some rB) (rest : List Byte) :
    readFields (b0 :: b1 :: rest) = .ok (⟨ICode.ofNibble (hi4 b0), lo4 b0, rA, rB, 0#32⟩, rest) := by
  simp only [readFields, regids, noValC, readRegByte, readImmediate, hA, hB, Bool.false_eq_true, if_false, if_true]

/-- The opcode byte and an immediate (30_encoding.md R152). -/
theorem readFields_immediate {b0 : Byte} (noRegids : (ICode.ofNibble (hi4 b0)).needRegids = false)
    (valC : (ICode.ofNibble (hi4 b0)).needValC = true) (b1 b2 b3 b4 : Byte) (rest : List Byte) :
    readFields (b0 :: b1 :: b2 :: b3 :: b4 :: rest) =
      .ok (⟨ICode.ofNibble (hi4 b0), lo4 b0, none, none, le32 b1 b2 b3 b4⟩, rest) := by
  simp only [readFields, noRegids, valC, readRegByte, readImmediate, Bool.false_eq_true, if_false, if_true]

/-! ## Naming the instruction, when there is none -/

theorem decode_of_readFields {bytes rest : List Byte} {fl : Fields} {e : DecodeError}
    (fields : readFields bytes = .ok (fl, rest)) (h : instrOf fl = .error e) : decode bytes = .error e := by
  simp only [decode, fields, h]

theorem instrOf_invalid {fl : Fields} (h : fl.icode.valid = false) :
    instrOf fl = .error (.invalidOpcode fl.icode) := by
  unfold instrOf
  cases e : fl.icode <;> simp [ICode.valid, e] at h ⊢

/-- The function code of the fields has no meaning (30_encoding.md R172). -/
def Fields.Undefined (fl : Fields) : Prop :=
  (fl.icode = .iopl ∧ 4 ≤ fl.ifun.toNat) ∨ ((fl.icode = .ijxx ∨ fl.icode = .irrmovl) ∧ 7 ≤ fl.ifun.toNat)

theorem instrOf_undefined {fl : Fields} (h : fl.Undefined) :
    instrOf fl = .error (.undefinedFunction fl.icode fl.ifun) := by
  unfold instrOf
  rcases h with ⟨icode, ifun⟩ | ⟨icode | icode, ifun⟩
  · simp only [icode, AluFun.ofNibble?_eq_none.mpr ifun]
  · simp only [icode, Cond.ofNibble?_eq_none.mpr ifun]
  · simp only [icode, Cond.ofNibble?_eq_none.mpr ifun]

/-- Nothing else keeps fields from naming an instruction. -/
theorem instrOf_error {fl : Fields} {e : DecodeError} (h : instrOf fl = .error e) :
    (e = .invalidOpcode fl.icode ∧ fl.icode.valid = false) ∨
      (e = .undefinedFunction fl.icode fl.ifun ∧ fl.Undefined) := by
  unfold Fields.Undefined
  unfold instrOf at h
  cases icode : fl.icode <;> simp only [icode] at h
  case irrmovl | ijxx =>
    split at h
    · simp at h
    · next none => exact .inr ⟨(Except.error.inj h).symm, .inr ⟨by simp, Cond.ofNibble?_eq_none.mp none⟩⟩
  case iopl =>
    split at h
    · simp at h
    · next none => exact .inr ⟨(Except.error.inj h).symm, .inl ⟨rfl, AluFun.ofNibble?_eq_none.mp none⟩⟩
  case invC | invD | invE | invF => exact .inl ⟨(Except.error.inj h).symm, rfl⟩
  all_goals simp at h

theorem undefined_of_instrOf {fl : Fields} {c : ICode} {f : Nibble}
    (h : instrOf fl = .error (.undefinedFunction c f)) : fl.Undefined := by
  rcases instrOf_error h with ⟨e, _⟩ | ⟨_, undefined⟩
  · simp at e
  · exact undefined

end Sys2Proof

namespace Sys2Proof.Machine

/-! ## The fetch stage -/

theorem wrap32_add_nat (a : Word) (n : Nat) : wrap32 (a.toInt + n) = a + BitVec.ofNat 32 n := by
  simp only [wrap32, BitVec.ofInt_add, BitVec.ofInt_toInt, BitVec.ofInt_natCast]

theorem fetchAt_of_outside {image : List Byte} {pc : Word} (outside : outsideImage image pc = true) :
    fetchAt image pc = fetchFails pc := by
  simp [fetchAt, outside]

theorem fetchAt_of_error {image : List Byte} {pc : Word} {e : FieldError}
    (fields : readFields (image.drop pc.toNat) = .error e) : fetchAt image pc = fetchFails pc := by
  simp [fetchAt, fields]

theorem fetchAt_of_fields {image : List Byte} {pc : Word} {fl : Fields} {rest : List Byte}
    (inside : outsideImage image pc = false) (fields : readFields (image.drop pc.toNat) = .ok (fl, rest)) :
    fetchAt image pc = ⟨pc, fetchStatus fl.icode, fl.icode, fl.ifun, fl.rA, fl.rB, fl.valC,
      pc + BitVec.ofNat 32 fl.icode.length, predictPC fl.icode fl.valC (pc + BitVec.ofNat 32 fl.icode.length)⟩ := by
  simp [fetchAt, inside, fields]

@[simp] theorem fetchAt_pc (image : List Byte) (pc : Word) : (fetchAt image pc).pc = pc := by
  rcases fetchAt_cases image pc with ⟨_, e⟩ | ⟨_, _, _, _, e⟩
  · rw [e]; rfl
  · rw [e]

/-- What a failed fetch gives (40_pipeline_stages.md R216). -/
theorem fetchFails_wires (pc : Word) :
    (fetchFails pc).toD = ⟨.addressError, .inop, 0, none, none, 0, wrap32 (pc.toInt + 1)⟩ ∧
      (fetchFails pc).predPC = wrap32 (pc.toInt + 1) := by
  rw [show wrap32 (pc.toInt + 1) = pc + 1#32 from wrap32_add pc 1#32]
  exact ⟨rfl, rfl⟩

/-- Settles O43, by the three outcomes of reading the fields. -/
theorem fetchOutputs : Obligations.FetchOutputs := by
  unfold Obligations.FetchOutputs
  refine fun image pc => ⟨fun outside => ?_, fun e _ fields => ?_, fun fl rest inside fields => ?_⟩
  · rw [fetchAt_of_outside outside]
    exact fetchFails_wires pc
  · rw [fetchAt_of_error fields]
    exact fetchFails_wires pc
  · rw [fetchAt_of_fields inside fields, wrap32_add_nat]
    exact ⟨rfl, rfl⟩

/-- Settles O4: the fields cannot be read, so the fetch fails. -/
theorem badRegisterNibbleFailsTheFetch : Obligations.BadRegisterNibbleFailsTheFetch := by
  unfold Obligations.BadRegisterNibbleFailsTheFetch
  intro image pc b0 b1 rest _ bytes need bad
  rw [fetchAt_of_error (bytes ▸ readFields_badRegister need bad rest)]
  rfl

/-- An invalid opcode is fetched as itself, one byte long, and decodes to no instruction. -/
theorem fetchAt_invalid {image : List Byte} {pc : Word} {b0 : Byte} {rest : List Byte}
    (inside : outsideImage image pc = false) (bytes : image.drop pc.toNat = b0 :: rest) (h : 0xC ≤ (hi4 b0).toNat) :
    (fetchAt image pc).stat = .invalidInstruction ∧ (fetchAt image pc).icode.valid = false ∧
      (fetchAt image pc).valP = wrap32 (pc.toInt + 1) ∧
      decode (b0 :: rest) = .error (.invalidOpcode (ICode.ofNibble (hi4 b0))) := by
  have invalid := ICode.valid_ofNibble_eq_false.mpr h
  obtain ⟨noRegids, noValC⟩ := ICode.needs_of_not_valid invalid
  have fields := readFields_opcodeOnly noRegids noValC rest
  rw [fetchAt_of_fields inside (bytes ▸ fields)]
  refine ⟨?_, invalid, ?_, decode_of_readFields fields (instrOf_invalid invalid)⟩
  · have : ICode.ofNibble (hi4 b0) ≠ .ihalt := by intro e; simp [e, ICode.valid] at invalid
    simp [fetchStatus, invalid, this]
  · rw [ICode.length, noRegids, noValC]
    exact (wrap32_add pc 1#32).symm

/-! ## The fetch of the instruction view -/

theorem State.fetchInstr_of_decode {s : State} {i : Instr} {rest : List Byte}
    (inside : outsideImage s.mem.image s.seqPC = false)
    (h : decode (s.mem.image.drop s.seqPC.toNat) = .ok (i, rest)) : s.fetchInstr = .instr i := by
  simp [State.fetchInstr, inside, h]

section
variable {s : State} (view : s.view = .instruction) (running : s.halted = false)
include view running

theorem step_of_instr {i : Instr} (found : s.fetchInstr = .instr i) : step s = exec i s := by
  simp [step, view, State.stepInstruction, running, found]

theorem step_of_stop {st : Status} (found : s.fetchInstr = .stop st) : step s = .next (s.stopAtFetch st) := by
  simp [step, view, State.stepInstruction, running, found]

theorem step_of_undefined {c : ICode} {f : Nibble} (found : s.fetchInstr = .undefined c f) :
    step s = .refused (.undefinedFunctionCode c f) := by
  simp [step, view, State.stepInstruction, running, found]

end

/-- Settles O25: the fetch finds the instruction. -/
theorem stepRunsTheDecodedInstruction : Obligations.StepRunsTheDecodedInstruction := by
  unfold Obligations.StepRunsTheDecodedInstruction
  intro s i view running ⟨inside, rest, h⟩
  exact step_of_instr view running (State.fetchInstr_of_decode inside h)

/-- A stop at fetch has no destination, so it writes no register under any FAULT_WB. -/
theorem State.stopAtFetch_stopped (s : State) {st : Status} (faulty : st.faulty = true) :
    Stopped s (s.stopAtFetch st) st ∧ (s.stopAtFetch st).regs = s.regs :=
  ⟨stopped_takeStatus s faulty .., RegFile.ext_get fun r => s.commit_get st _ _ _ _ r (by simp) (by simp)⟩

theorem step_stopped {s : State} (view : s.view = .instruction) (running : s.halted = false) {st : Status}
    (faulty : st.faulty = true) (found : s.fetchInstr = .stop st) :
    ∃ t, step s = .next t ∧ Stopped s t st ∧ t.regs = s.regs :=
  ⟨_, step_of_stop view running found, s.stopAtFetch_stopped faulty⟩

/-- Settles O26: each of the three fetches stops, with the status its error has. -/
theorem fetchFaultStopsTheMachine : Obligations.FetchFaultStopsTheMachine := by
  unfold Obligations.FetchFaultStopsTheMachine
  refine fun s view running => ⟨fun outside => ?_, fun e inside h => ?_, fun c inside h => ?_⟩
  · exact step_stopped view running rfl (by simp [State.fetchInstr, outside])
  · exact step_stopped view running rfl (by simp [State.fetchInstr, inside, h])
  · exact step_stopped view running rfl (by simp [State.fetchInstr, inside, h])

end Sys2Proof.Machine
end

section
/-! The statements on the cycle driver, the count of cycles and the runs (60_exceptions.md, 70_reset_and_hazards.md). -/

namespace Sys2Proof.Machine

theorem Status.faulty_iff {st : Status} :
    st.faulty = true ↔ st = .halt ∨ st = .addressError ∨ st = .invalidInstruction := by
  cases st <;> simp [Status.faulty]

/-! ## One step -/

/-- In the instruction view a step leaves the machine behind the instruction alone, whether it runs one or stops at
fetch. -/
theorem step_sameMachine {s t : State} (view : s.view = .instruction) (h : step s = .next t) : SameMachine s t := by
  cases step_cases s t h with
  | ended _ same =>
    rw [same]
    exact ⟨⟨rfl, rfl, rfl, rfl⟩, ⟨rfl, rfl, rfl⟩, ⟨rfl, rfl⟩, ⟨rfl, rfl, rfl⟩, rfl, rfl⟩
  | cycle _ other => simp [view] at other
  | runs _ _ i _ _ what => exact what.sameMachine
  | stops _ _ st _ status stop =>
    have faulty : st.faulty = true := by rcases status with rfl | rfl <;> rfl
    rw [stop]
    exact (s.stopAtFetch_stopped faulty).1.rest

theorem step_of_halted {s : State} (h : s.halted = true) : step s = .next s := by
  cases view : s.view <;> simp [step, view, State.stepOneCycle, State.stepInstruction, h]

/-- Settles O27: both views ask first whether the run has ended, and neither has the parameters to write. -/
theorem endedRunChangesNothing : Obligations.EndedRunChangesNothing := by
  unfold Obligations.EndedRunChangesNothing
  refine ⟨fun _ => step_of_halted, fun s t h => ?_⟩
  cases running : s.halted with
  | true =>
    rw [step_of_halted running, Host.Outcome.next.injEq] at h
    rw [h]
    exact ⟨rfl, rfl, rfl⟩
  | false =>
    cases view : s.view with
    | clockCycle =>
      have c := step_cycleOf view running h
      exact ⟨c.cfg, c.maxCycles, by rw [c.view, view]⟩
    | instruction =>
      have same := step_sameMachine view h
      exact ⟨same.model.1, same.driver.2.2, by rw [same.model.2, view]⟩

/-- Settles O30: the end of the cycle, with the stopping statuses by name. -/
theorem endOfCycle : Obligations.EndOfCycle := by
  unfold Obligations.EndOfCycle
  intro s t view running h
  have c := step_cycleOf view running h
  refine ⟨c.stat, c.log, c.cycle, ?_⟩
  rw [c.halted, running, c.cycle, ← Status.faulty_iff]
  simp

/-! ## Runs of cycles -/

theorem State.stepOneCycle_of_halted {s : State} (h : s.halted = true) : s.stepOneCycle = .next s := by
  simp [State.stepOneCycle, h]

theorem State.runCycles_of_halted {s : State} (h : s.halted = true) (n : Nat) : State.runCycles n s = .next s := by
  induction n with
  | zero => rfl
  | succ n ih => simp only [State.runCycles, State.stepOneCycle_of_halted h, ih]

/-- A run of cycles whose first cycle goes through goes on from there. -/
theorem State.runCycles_succ_of_next {s u : State} (h : s.stepOneCycle = .next u) (n : Nat) :
    State.runCycles (n + 1) s = State.runCycles n u := by
  simp only [State.runCycles, h]

theorem State.runCycles_add {s t : State} (m n : Nat) (h : State.runCycles m s = .next t) :
    State.runCycles (m + n) s = State.runCycles n t := by
  induction m generalizing s with
  | zero =>
    obtain rfl := Host.Outcome.next.inj h
    rw [Nat.zero_add]
  | succ m ih =>
    obtain ⟨u, first, rest⟩ := State.runCycles_succ h
    rw [Nat.succ_add, State.runCycles_succ_of_next first, ih rest]

/-- The count of a run of cycles: the log grows with the counter, the counter by at most one a cycle, and by exactly
one while the run goes on, which it does below the bound only. -/
structure CountOf (n : Nat) (s t : State) : Prop where
  log : t.log.length + s.cycle = s.log.length + t.cycle
  cycle_le : t.cycle ≤ s.cycle + n
  maxCycles : t.maxCycles = s.maxCycles
  running : t.halted = false → t.cycle = s.cycle + n ∧ (0 < n → t.cycle < s.maxCycles)

theorem CycleOf.countOf {s t : State} (c : CycleOf s t) : CountOf 1 s t where
  log := by simp [c.log, c.cycle]; omega
  cycle_le := c.cycle.le
  maxCycles := c.maxCycles
  running h := by
    have := c.halted
    simp only [h, Bool.false_eq, Bool.or_eq_false_iff, decide_eq_false_iff_not] at this
    exact ⟨c.cycle, fun _ => by rw [c.cycle]; omega⟩

theorem State.runCycles_countOf {n : Nat} {s t : State} (h : State.runCycles n s = .next t) : CountOf n s t := by
  induction n generalizing s with
  | zero =>
    obtain rfl := Host.Outcome.next.inj h
    exact ⟨rfl, le_rfl, rfl, fun _ => ⟨rfl, by simp⟩⟩
  | succ n ih =>
    obtain ⟨u, first, rest⟩ := State.runCycles_succ h
    rcases State.stepOneCycle_cases first with ⟨halted, rfl⟩ | ⟨_, c⟩
    · obtain rfl : u = t := by rwa [State.runCycles_of_halted halted, Host.Outcome.next.injEq] at rest
      exact ⟨rfl, by omega, rfl, fun running => by simp [halted] at running⟩
    · have ⟨log₁, le₁, max₁, run₁⟩ := c.countOf
      have ⟨log₂, le₂, max₂, run₂⟩ := ih rest
      refine ⟨by omega, by omega, max₂.trans max₁, fun running => ?_⟩
      obtain ⟨count, bound⟩ := run₂ running
      rw [c.cycle] at count
      refine ⟨by omega, fun _ => ?_⟩
      cases n with
      | zero =>
        obtain rfl := Host.Outcome.next.inj rest
        exact (run₁ running).2 (by omega)
      | succ n => rw [← max₁]; exact bound (by omega)

/-- Settles O31: a run is a number of steps that reaches the bound, and the bound ends it. -/
theorem runIsRepeatedSingleSteps : Obligations.RunIsRepeatedSingleSteps := by
  unfold Obligations.RunIsRepeatedSingleSteps
  refine ⟨fun s t h => ?_, fun s image n hn => ?_, fun s t m n h => State.runCycles_add m n h⟩
  · by_contra running
    obtain ⟨count, bound⟩ := (State.runCycles_countOf h).running (by simpa using running)
    have := bound (by omega)
    omega
  · have bound : max 1 (n - 0) = n := by omega
    exact congrArg (State.runCycles · _) bound

/-! ## The counter is not visible -/

/-- The state with another count of cycles. -/
def State.withCycle (s : State) (n : Nat) : State := { s with cycle := n }

theorem State.commit_withCycle (s : State) (n : Nat) (st : Status) (dE : RegId) (vE : Word) (dM : RegId) (vM : Word) :
    (s.withCycle n).commit st dE vE dM vM = (s.commit st dE vE dM vM).withCycle n := by
  obtain ⟨regs, free⟩ := State.commit_regs_congr (s.withCycle n) s st dE vE dM vM rfl rfl rfl
  rw [State.commit_eq, regs, free, s.commit_eq]
  rfl

theorem State.retireAccess_withCycle (s : State) (n : Nat) (ok : Bool) (dE : RegId) (vE : Word) (dM : RegId)
    (vM pc : Word) :
    (s.withCycle n).retireAccess ok dE vE dM vM pc = (s.retireAccess ok dE vE dM vM pc).withCycle n := by
  cases ok with
  | true => rfl
  | false => rw [State.retireAccess_false, State.commit_withCycle]; rfl

/-- A meaning behind used sources runs alike with another count when what is behind them does. -/
theorem usingSource_withCycle {c : ICode} {r : RegId} {t u v : State} {n : Nat}
    (rest : v = u.withCycle n) (h : usingSource c r (.next u) = .next t) :
    usingSource c r (.next v) = .next (t.withCycle n) := by
  subst rest
  obtain ⟨used, e⟩ := usingSource_next.mp h
  obtain rfl := Host.Outcome.next.inj e
  exact usingSource_next.mpr ⟨used, rfl⟩

theorem usingSources_withCycle {c : ICode} {a b : RegId} {t u v : State} {n : Nat}
    (rest : v = u.withCycle n) (h : usingSources c a b (.next u) = .next t) :
    usingSources c a b (.next v) = .next (t.withCycle n) := by
  subst rest
  obtain ⟨usedA, usedB, e⟩ := usingSources_next.mp h
  obtain rfl := Host.Outcome.next.inj e
  exact usingSources_next.mpr ⟨usedA, usedB, rfl⟩

theorem exec_withCycle {i : Instr} {s t : State} (n : Nat) (h : exec i s = .next t) :
    exec i (s.withCycle n) = .next (t.withCycle n) := by
  cases i with
  | nop | irmovl | jmp | jle | jl | je | jne | jge | jg =>
    obtain rfl := Host.Outcome.next.inj h
    rfl
  | rrmovl | cmovle | cmovl | cmove | cmovne | cmovge | cmovg => exact usingSource_withCycle rfl h
  | addl | subl | andl | xorl => exact usingSources_withCycle rfl h
  | halt =>
    obtain rfl := Host.Outcome.next.inj h
    exact congrArg (fun u : State => Host.Outcome.next (u.takeStatus .halt)) (s.commit_withCycle n ..)
  | call | ret | popl =>
    obtain rfl := Host.Outcome.next.inj h
    exact congrArg Host.Outcome.next ((s.setMem _).retireAccess_withCycle n ..)
  | rmmovl => exact usingSources_withCycle ((s.setMem _).retireAccess_withCycle n ..) h
  | mrmovl | pushl => exact usingSource_withCycle ((s.setMem _).retireAccess_withCycle n ..) h

theorem State.latchW_withCycle (s : State) (n : Nat) (mode : LatchMode) :
    (s.withCycle n).latchW mode = (s.latchW mode).withCycle n := by cases mode <;> rfl

theorem State.latchM_withCycle (s : State) (n : Nat) (mode : LatchMode) :
    (s.withCycle n).latchM mode = (s.latchM mode).withCycle n := by cases mode <;> rfl

theorem State.latchE_withCycle (s : State) (n : Nat) (mode : LatchMode) :
    (s.withCycle n).latchE mode = (s.latchE mode).withCycle n := by cases mode <;> rfl

theorem State.latchD_withCycle (s : State) (n : Nat) (mode : LatchMode) :
    (s.withCycle n).latchD mode = (s.latchD mode).withCycle n := by cases mode <;> rfl

theorem State.latchF_withCycle (s : State) (n : Nat) (mode : LatchMode) :
    (s.withCycle n).latchF mode = (s.latchF mode).withCycle n := by cases mode <;> rfl

theorem State.writebackCompute_withCycle (s : State) (n : Nat) :
    (s.withCycle n).writebackCompute = s.writebackCompute.withCycle n := s.commit_withCycle n ..

theorem State.memoryCompute_withCycle (s : State) (n : Nat) :
    (s.withCycle n).memoryCompute = s.memoryCompute.withCycle n := by
  change (if s.M.stat = .ok ∧ memReads s.M.icode then _ else if s.M.stat = .ok ∧ memWrites s.M.icode then _ else _) =
    (State.memoryCompute s).withCycle n
  unfold State.memoryCompute
  by_cases reads : s.M.stat = .ok ∧ memReads s.M.icode
  · rw [if_pos reads, if_pos reads]; rfl
  · by_cases writes : s.M.stat = .ok ∧ memWrites s.M.icode
    · rw [if_neg reads, if_neg reads, if_pos writes, if_pos writes]; rfl
    · rw [if_neg reads, if_neg reads, if_neg writes, if_neg writes]; rfl

theorem State.backEnd_withCycle (s : State) (n : Nat) (ctl : Controls) :
    (s.withCycle n).backEnd ctl = (s.backEnd ctl).withCycle n := by
  simp only [State.backEnd, State.latchW_withCycle, State.writebackCompute_withCycle, State.latchM_withCycle,
    State.memoryCompute_withCycle, State.latchE_withCycle]

theorem State.frontEnd_withCycle (s : State) (n : Nat) (ctl : Controls) :
    (s.withCycle n).frontEnd ctl = (s.frontEnd ctl).withCycle n := by
  have execute : (s.withCycle n).executeCompute = s.executeCompute.withCycle n := rfl
  have decode (u : State) : (u.withCycle n).decodeCompute = u.decodeCompute.withCycle n := rfl
  simp only [State.frontEnd, execute, State.latchD_withCycle, decode, State.latchF_withCycle]
  rfl

/-- A clock cycle with another count: the same but for the counter and the test of the bound. -/
theorem State.clock_withCycle {s t : State} (n : Nat) (h : s.clock = .next t) :
    (s.withCycle n).clock = .next { t with
      cycle := n + 1, halted := s.halted || t.W.stat.faulty || decide (s.maxCycles ≤ n + 1) } := by
  have notRefused := (State.clock_cycleOf h).notRefused
  have back := s.backEnd_withCycle n s.hazardDecisions
  have front := (s.backEnd s.hazardDecisions).frontEnd_withCycle n s.hazardDecisions
  simp only [State.clock, notRefused, Host.Outcome.next.injEq] at h
  subst h
  have same : (s.withCycle n).hazardDecisions = s.hazardDecisions := rfl
  have refusal : ((s.backEnd s.hazardDecisions).withCycle n).executeRefusal = none := notRefused
  simp only [State.clock, same, back, front, refusal]
  simp [State.endOfCycle, State.withCycle, State.takeStatus, State.logEntry, State.frontEnd, State.backEnd]

/-- Settles O28: a run counts its cycles, and everything but the counter and the bound is computed without it. -/
theorem cyclesAreCountedAndLogged : Obligations.CyclesAreCountedAndLogged := by
  unfold Obligations.CyclesAreCountedAndLogged
  refine ⟨fun s t view running h => ?_, fun s t image n h => ?_, fun i s t n h => exec_withCycle n h,
    fun s t n h => State.clock_withCycle n h⟩
  · have c := step_cycleOf view running h
    exact ⟨c.cycle, by simp [c.log]⟩
  · obtain ⟨log, le, -, running⟩ := State.runCycles_countOf h
    have start : (s.load image).cycle = 0 := rfl
    have empty : (s.load image).log.length = 0 := rfl
    exact ⟨by omega, by omega, fun goesOn => by have := (running goesOn).1; omega⟩

end Sys2Proof.Machine
end

section
/-! The invariants: the good state and the agreement of statuses with opcodes, each kept by every step and met after a
load, and the state after reset and load (10_state.md, 70_reset_and_hazards.md section 1). -/

namespace Sys2Proof.Machine

/-! ## The good state -/

/-- A status kept over a bubble, or taken from W. -/
theorem CycleOf.stat_cases {s t : State} (c : CycleOf s t) :
    (t.W.stat = .bubble ∧ t.stat = s.stat) ∨ (t.W.stat ≠ .bubble ∧ t.stat = t.W.stat) := by
  rw [c.stat]
  by_cases h : t.W.stat = .bubble <;> simp [h]

theorem CycleOf.halted_of_faulty {s t : State} (c : CycleOf s t) (h : t.W.stat.faulty = true) : t.halted = true := by
  rw [c.halted, h]
  simp

theorem CycleOf.inv {s t : State} (c : CycleOf s t) (running : s.halted = false) (memory : MemoryOf s.mem t.mem)
    (inv : s.Inv) : t.Inv where
  memory := memory.wf inv.memory
  protectedWords := memory.readProtected inv.protectedWords
  status := by
    rcases c.stat_cases with ⟨_, e⟩ | ⟨h, e⟩
    · rw [e]; exact inv.status
    · rw [e]; exact h
  log := by rw [c.log, c.cycle, List.length_append, inv.log]; rfl
  statStops faulty := by
    rcases c.stat_cases with ⟨_, e⟩ | ⟨_, e⟩
    · rw [e] at faulty
      simp [inv.statStops faulty] at running
    · exact c.halted_of_faulty (e ▸ faulty)
  retiredStops := c.halted_of_faulty

/-- A step of the instruction view, which leaves W and the log alone, ends the run where it takes a stopping status. -/
theorem SameMachine.inv {s t : State} (same : SameMachine s t) (running : s.halted = false)
    (memory : MemoryOf s.mem t.mem) (stat : t.stat = .ok ∨ (t.stat.faulty = true ∧ t.halted = true)) (inv : s.Inv) :
    t.Inv where
  memory := memory.wf inv.memory
  protectedWords := memory.readProtected inv.protectedWords
  status := by rcases stat with e | ⟨faulty, _⟩ <;> intro h <;> simp_all [Status.faulty]
  log := by rw [same.driver.1, same.driver.2.1, inv.log]
  statStops faulty := by
    rcases stat with e | ⟨_, h⟩
    · rw [e] at faulty; simp [Status.faulty] at faulty
    · exact h
  retiredStops faulty := by
    rw [same.stages.2.2.2] at faulty
    simp [inv.retiredStops faulty] at running

theorem ExecOf.stat_cases {i : Instr} {s t : State} (h : ExecOf i s t) :
    t.stat = .ok ∨ (t.stat.faulty = true ∧ t.halted = true) := by
  rcases h.completed_or_stopped with ⟨_, done⟩ | ⟨st, faulty, stop⟩
  · exact .inl done.stat
  · exact .inr ⟨by rw [stop.stat, faulty], stop.halted⟩

/-- Settles O53, by the four ways a step has a next state. -/
theorem stepKeepsAGoodState : Obligations.StepKeepsAGoodState := by
  unfold Obligations.StepKeepsAGoodState
  intro s t inv h
  have memory := step_memory h
  cases step_cases s t h with
  | ended _ same => rwa [same]
  | cycle running _ c => exact c.inv running memory inv
  | runs running _ i _ _ what => exact what.sameMachine.inv running memory what.stat_cases inv
  | stops running view st _ status stop =>
    have faulty : st.faulty = true := by rcases status with rfl | rfl <;> rfl
    have stopped := (s.stopAtFetch_stopped faulty).1
    rw [← stop] at stopped
    exact stopped.rest.inv running memory (.inr ⟨by rw [stopped.stat, faulty], stopped.halted⟩) inv

/-! ## Statuses and opcodes -/

theorem statusAgreesAfterMemory_of_agrees {st : Status} {c : ICode} (h : statusAgrees st c = true) :
    statusAgreesAfterMemory st c = true := by
  simp [statusAgreesAfterMemory, h]

/-- A fetch gives a failed fetch as a no-op, and otherwise the status of the opcode (40_pipeline_stages.md R216, R217). -/
theorem fetchAt_agrees (image : List Byte) (pc : Word) :
    statusAgrees (fetchAt image pc).stat (fetchAt image pc).icode = true := by
  rcases fetchAt_cases image pc with ⟨_, e⟩ | ⟨fl, _, _, _, e⟩
  · rw [e]; rfl
  · rw [e]
    dsimp only
    cases fl.icode <;> rfl

/-- Memory adds to the status an AddressError for an access that has failed (40_pipeline_stages.md R254). -/
theorem memoryOut_agrees {M : MReg} {ok : Bool} {v : Word} (agrees : statusAgrees M.stat M.icode = true)
    (access : ok = true ∨ memReads M.icode = true ∨ memWrites M.icode = true) :
    statusAgreesAfterMemory (memoryOut M ok v).stat (memoryOut M ok v).icode = true := by
  cases ok with
  | true => exact statusAgreesAfterMemory_of_agrees agrees
  | false => simpa [memoryOut, statusAgreesAfterMemory] using .inr (access.resolve_left (by simp))

theorem CycleOf.statusesAgree {s t : State} (c : CycleOf s t) (h : s.StatusesAgree) : t.StatusesAgree := by
  have d : statusAgrees t.D.stat t.D.icode = true := by
    rw [c.D]
    split_ifs
    · exact h.d
    · rfl
    · exact h.fOut
  have e : statusAgrees t.E.stat t.E.icode = true := by
    rw [c.E]
    split_ifs
    · rfl
    · exact h.dOut
  have m : statusAgrees t.M.stat t.M.icode = true := by
    rw [c.M]
    split_ifs
    · rfl
    · exact h.eOut
  refine ⟨d, e, m, by rw [c.W]; exact h.mOut, by rw [c.fOut]; exact fetchAt_agrees .., by rw [c.dOut]; exact d,
    by rw [c.eOut]; exact e, ?_⟩
  rcases c.memory with ⟨_, reads, _, e⟩ | ⟨_, _, writes, _, e⟩ | ⟨_, _, e⟩
  · rw [e]; exact memoryOut_agrees m (.inr (.inl reads))
  · rw [e]; exact memoryOut_agrees m (.inr (.inr writes))
  · rw [e]; exact memoryOut_agrees m (.inl rfl)

theorem SameMachine.statusesAgree {s t : State} (same : SameMachine s t) (h : s.StatusesAgree) : t.StatusesAgree := by
  obtain ⟨⟨d, e, m, w⟩, ⟨dOut, eOut, mOut⟩, ⟨_, fOut⟩, _, _⟩ := same
  exact ⟨d ▸ h.d, e ▸ h.e, m ▸ h.m, w ▸ h.w, by rw [fOut]; exact h.fOut, dOut ▸ h.dOut, eOut ▸ h.eOut,
    mOut ▸ h.mOut⟩

/-- Settles O55: a cycle moves the statuses beside their opcodes, and the instruction view leaves both alone. -/
theorem stepKeepsStatusesAgreeing : Obligations.StepKeepsStatusesAgreeing := by
  unfold Obligations.StepKeepsStatusesAgreeing
  intro s t agree h
  cases running : s.halted with
  | true =>
    rw [step_of_halted running, Host.Outcome.next.injEq] at h
    rwa [← h]
  | false =>
    cases view : s.view with
    | clockCycle => exact (step_cycleOf view running h).statusesAgree agree
    | instruction => exact (step_sameMachine view h).statusesAgree agree

/-! ## Reset, load, configure -/

theorem State.load_inv (s : State) {image : List Byte} (h : image.length < 2 ^ 31) : (s.load image).Inv where
  memory := Memory.loaded_wf image h
  protectedWords _ marked := absurd marked List.not_mem_nil
  status := by simp [State.load, State.loaded]
  log := rfl
  statStops faulty := by simp [State.load, State.loaded, Status.faulty] at faulty
  retiredStops faulty := by simp [State.load, State.loaded, WReg.bubble, Status.faulty] at faulty

theorem State.load_statusesAgree (s : State) (image : List Byte) : (s.load image).StatusesAgree :=
  ⟨rfl, rfl, rfl, rfl, rfl, rfl, rfl, rfl⟩

/-- Settles O54: reset is the load of the empty image. -/
theorem resetAndLoadAreGood : Obligations.ResetAndLoadAreGood := by
  unfold Obligations.ResetAndLoadAreGood
  exact ⟨State.reset.load_inv (image := []) (by decide), State.reset.load_statusesAgree [],
    fun s image h => ⟨s.load_inv h, s.load_statusesAgree image⟩⟩

theorem State.load_quiescent (s : State) (image : List Byte) : (s.load image).Quiescent :=
  ⟨rfl, rfl, rfl, rfl, rfl, ⟨rfl, rfl⟩, rfl, rfl, rfl⟩

/-- Settles O52, field by field of the state a load makes. -/
theorem loadResetsAndConfigureBounds : Obligations.LoadResetsAndConfigureBounds := by
  unfold Obligations.LoadResetsAndConfigureBounds
  exact ⟨fun s image => ⟨s.load_quiescent image, rfl, rfl, rfl, RegFile.get_all _, rfl, rfl, rfl, rfl, rfl, rfl, rfl⟩,
    fun _ _ => ⟨rfl, rfl⟩⟩

/-- Settles O51: the load of the empty image with the reference parameters. -/
theorem resetState : Obligations.ResetState := by
  unfold Obligations.ResetState
  exact ⟨rfl, RegFile.get_all _, rfl, rfl, rfl, rfl, rfl, rfl, rfl, State.reset.load_quiescent [], rfl, rfl, rfl, rfl⟩

end Sys2Proof.Machine
end

section
/-! The statements on the hazards, the latches and the stages of a cycle (40_pipeline_stages.md,
70_reset_and_hazards.md section 2). -/

namespace Sys2Proof.Machine

/-! ## Hazards -/

theorem State.mispredict_iff {s : State} : s.mispredict = true ↔ s.E.icode = .ijxx ∧ s.eOut.cnd = false := by
  simp [State.mispredict]

theorem State.retHazard_iff {s : State} :
    s.retHazard = true ↔ s.D.icode = .iret ∨ s.E.icode = .iret ∨ s.M.icode = .iret := by
  simp [State.retHazard]

/-- A load/use hazard needs a load in E (70_reset_and_hazards.md R611). -/
theorem State.loadUse_eq_false {s : State} (h : s.E.icode ≠ .imrmovl ∧ s.E.icode ≠ .ipopl) : s.loadUse = false := by
  simp [State.loadUse, h]

theorem State.loadUse_of_jump {s : State} (h : s.E.icode = .ijxx) : s.loadUse = false :=
  State.loadUse_eq_false (by simp [h])

theorem State.loadUse_of_mispredict {s : State} (h : s.mispredict = true) : s.loadUse = false :=
  State.loadUse_of_jump (State.mispredict_iff.mp h).1

/-- A load in E whose memory destination is a source in decode (70_reset_and_hazards.md R611). -/
theorem State.loadUse_of_source {s : State} {r : Reg} (load : s.E.icode = .imrmovl ∨ s.E.icode = .ipopl)
    (dst : s.E.dstM = some r) (src : s.dOut.srcA = some r ∨ s.dOut.srcB = some r) : s.loadUse = true := by
  simp only [State.loadUse, dst, decide_eq_true_eq]
  exact ⟨load, by simp, src.imp Eq.symm Eq.symm⟩

/-! ## What each mode makes of each register -/

/-- What a cycle makes of the five pipeline registers, by the modes of their latches. -/
theorem CycleOf.latches {s t : State} (c : CycleOf s t) :
    (s.hazardDecisions.F = .latch → t.F = ⟨.ok, s.fOut.predPC⟩) ∧
    (s.hazardDecisions.F = .bubble → t.F = ⟨.bubble, s.fOut.predPC⟩) ∧
    (s.hazardDecisions.F = .stall → t.F = s.F) ∧
    (s.hazardDecisions.D = .latch → t.D = s.fOut.toD) ∧
    (s.hazardDecisions.D = .bubble → t.D = DReg.bubble) ∧ (s.hazardDecisions.D = .stall → t.D = s.D) ∧
    (s.hazardDecisions.E = .latch → t.E = s.dOut) ∧ (s.hazardDecisions.E = .bubble → t.E = EReg.bubble) ∧
    (s.hazardDecisions.M = .latch → t.M = s.eOut) ∧ (s.hazardDecisions.M = .bubble → t.M = MReg.bubble) ∧
    t.W = s.mOut := by
  rw [c.F, c.D, c.E, c.M]
  simp only [State.hazardDecisions]
  refine ⟨?_, ?_, ?_, ?_, ?_, ?_, ?_, ?_, ?_, ?_, c.W⟩ <;> split_ifs <;> simp

/-- Settles O32: the rows of the combination table (a load/use hazard excludes a misprediction), and what each mode
makes of each register. -/
theorem hazardsChooseTheModes : Obligations.HazardsChooseTheModes := by
  unfold Obligations.HazardsChooseTheModes
  refine fun s => ⟨?_, ?_, ?_, ?_, ?_, ?_, ?_, ?_, rfl, fun t view running h => (step_cycleOf view running h).latches⟩
  · intro load ret jump drain
    simp [State.hazardDecisions, load, ret, jump, drain]
  · intro load drain
    simp [State.hazardDecisions, load, drain]
  · intro ret load jump drain
    simp [State.hazardDecisions, load, ret, jump, drain]
  · intro jump ret drain
    simp [State.hazardDecisions, State.loadUse_of_mispredict jump, ret, jump, drain]
  · intro ret jump drain
    simp [State.hazardDecisions, State.loadUse_of_mispredict jump, ret, jump, drain]
  · intro drain
    simp only [State.hazardDecisions, drain]
    refine ⟨by simp, by simp, ?_, ?_⟩ <;> split_ifs <;> simp_all
  · simp only [State.hazardDecisions]
    split_ifs <;> simp
  · simp only [State.hazardDecisions]
    split_ifs <;> simp

/-- A mispredicted jump goes on to M, and fetch to its fall-through address (40_pipeline_stages.md R210). -/
theorem CycleOf.fetch_of_mispredict {s t : State} (c : CycleOf s t) (icode : s.eOut.icode = .ijxx)
    (cnd : s.eOut.cnd = false) (drain : s.drain = false) : t.M = s.eOut ∧ t.fOut.pc = s.eOut.valA := by
  have m : t.M = s.eOut := by rw [c.M, drain]; rfl
  refine ⟨m, ?_⟩
  rw [c.fOut, fetchAt_pc, State.fetchPC, m, if_pos ⟨icode, cnd⟩]

/-- Settles O34, by the modes each hazard asks for. -/
theorem hazardsActOnThePipeline : Obligations.HazardsActOnThePipeline := by
  unfold Obligations.HazardsActOnThePipeline
  intro s t view running h
  have c := step_cycleOf view running h
  refine ⟨fun r load dst src => ?_, fun ret load => ?_, fun jump cnd icode drain => ?_⟩
  · have hazard := State.loadUse_of_source load dst src
    simp [c.F, c.D, c.E, hazard]
  · have hazard := State.retHazard_iff.mpr ret
    simp [c.F, c.D, load, hazard]
  · have hazard := State.mispredict_iff.mpr ⟨jump, cnd⟩
    obtain ⟨m, pc⟩ := c.fetch_of_mispredict icode cnd drain
    exact ⟨by simp [c.D, State.loadUse_of_jump jump, hazard], by simp [c.E, hazard], m, pc⟩

/-! ## The drain -/

theorem State.backEnd_W (s : State) : (s.backEnd s.hazardDecisions).W = s.mOut := by
  simp [State.backEnd]

/-- Behind a stopping status nothing is executed, so no cycle is refused (70_reset_and_hazards.md R614). -/
theorem State.executeRefusal_of_faulty {s : State} (h : s.mOut.stat.faulty = true) :
    (s.backEnd s.hazardDecisions).executeRefusal = none := by
  simp [State.executeRefusal, State.olderFault, State.backEnd_W, h]

theorem step_of_clock {s : State} (view : s.view = .clockCycle) (running : s.halted = false) : step s = s.clock := by
  simp [step, view, State.stepOneCycle, running]

/-- Settles O35: the drain puts bubbles in E and M, and an older fault keeps the flags. -/
theorem drainCommitsNothingYounger : Obligations.DrainCommitsNothingYounger := by
  unfold Obligations.DrainCommitsNothingYounger
  intro s view running faulty
  obtain ⟨t, run, c⟩ := s.clock_next (State.executeRefusal_of_faulty faulty)
  have drain : s.drain = true := by simp [State.drain, faulty]
  have wFaulty : t.W.stat.faulty = true := by rw [c.W, faulty]
  have notBubble : t.W.stat ≠ .bubble := by intro e; simp [e, Status.faulty] at wFaulty
  have m : t.M = MReg.bubble := by simp [c.M, drain]
  have e : t.E = EReg.bubble := by simp [c.E, drain]
  refine ⟨t, (step_of_clock view running).trans run, c.halted_of_faulty wFaulty, ?_, ?_, ?_, c.W, m, e, ?_⟩
  · rw [c.stat, if_neg notBubble, c.W]
  · rw [c.cc, e, if_neg (by simp [EReg.bubble])]
  · rcases c.memory with ⟨ok, _⟩ | ⟨ok, _⟩ | ⟨_, same, _⟩
    · simp [m, MReg.bubble] at ok
    · simp [m, MReg.bubble] at ok
    · exact same
  · intro suppress
    rw [c.regs, s.commit_suppress _ _ _ _ _ suppress faulty]

/-! ## Forwarding, execute -/

/-- Settles O36: the last write to the register that names it is the first stage the multiplexer asks. -/
theorem forwardingGivesTheNewestValue : Obligations.ForwardingGivesTheNewestValue := by
  unfold Obligations.ForwardingGivesTheNewestValue
  intro s r
  simp [State.forward, eq_comm]

theorem State.olderFault_eq_false {s : State} :
    s.olderFault = false ↔ s.mOut.stat.faulty = false ∧ s.W.stat.faulty = false := by
  simp [State.olderFault]

/-- The unwrapped ALU result of an OPl with a function (40_pipeline_stages.md R242). -/
theorem execPre_of_opl {E : EReg} {f : AluFun} (opl : E.icode = .iopl) (code : AluFun.ofNibble? E.ifun = some f) :
    execPre E = aluPre f E.valB E.valA := by
  simp [execPre, aluFunOf, aluAOf, aluBOf, opl, code]

/-- The unwrapped ALU result of every other opcode is a sum (40_pipeline_stages.md R242). -/
theorem execPre_of_not_opl {E : EReg} (other : E.icode ≠ .iopl) :
    execPre E = (aluBOf E).toInt + (aluAOf E).toInt := by
  simp [execPre, aluFunOf, other, aluPre]

/-- Settles O37: the gate of the flag write, read off the cycle, and the unwrapped result of an OPl. -/
theorem flagsAreWrittenOnlyByUnfaultedArithmetic : Obligations.FlagsAreWrittenOnlyByUnfaultedArithmetic := by
  unfold Obligations.FlagsAreWrittenOnlyByUnfaultedArithmetic
  intro s t view running h
  have c := step_cycleOf view running h
  refine ⟨fun gate => ?_, fun f opl mFault wFault code => ⟨?_, ?_⟩⟩
  · rw [c.cc, if_neg]
    rintro ⟨opl, noFault⟩
    rw [State.olderFault_eq_false] at noFault
    simp [opl, noFault] at gate
  · rw [c.cc, if_pos ⟨opl, State.olderFault_eq_false.mpr ⟨mFault, wFault⟩⟩, execPre_of_opl opl code]
  · rw [c.eOut, ← execPre_of_opl opl code]
    rfl

/-- Settles O40: the execute wires are computed from the E the cycle leaves. -/
theorem executeStagePasses : Obligations.ExecuteStagePasses := by
  unfold Obligations.ExecuteStagePasses
  intro s t view running h
  rw [(step_cycleOf view running h).eOut]
  refine ⟨rfl, rfl, rfl, rfl, rfl, fun _ code => ?_⟩
  simp only [execOut, cndValue, code]
  rfl

/-! ## Memory, write-back -/

theorem memReads_iff {c : ICode} : memReads c = true ↔ c = .imrmovl ∨ c = .ipopl ∨ c = .iret := by
  cases c <;> simp [memReads]

theorem memWrites_iff {c : ICode} : memWrites c = true ↔ c = .irmmovl ∨ c = .ipushl ∨ c = .icall := by
  cases c <;> simp [memWrites]

/-- The passed-through `%esp` for pop and return, the ALU result for the rest (40_pipeline_stages.md R250). -/
theorem memAddr_eq_ite (M : MReg) : memAddr M = if M.icode = .ipopl ∨ M.icode = .iret then M.valA else M.valE := by
  unfold memAddr
  cases M.icode <;> rfl

section
variable {s t : State} (c : CycleOf s t)
include c

theorem CycleOf.memory_of_reads (ok : t.M.stat = .ok) (reads : memReads t.M.icode = true) :
    t.mem = (s.mem.read (memAddr t.M)).mem ∧
      t.mOut = memoryOut t.M (s.mem.read (memAddr t.M)).ok (s.mem.read (memAddr t.M)).value := by
  rcases c.memory with ⟨_, _, m, e⟩ | ⟨_, noRead, _⟩ | ⟨none, _⟩
  · exact ⟨m, e⟩
  · simp [reads] at noRead
  · simp [ok, reads] at none

theorem CycleOf.memory_of_writes (ok : t.M.stat = .ok) (writes : memWrites t.M.icode = true) :
    t.mem = (s.mem.write (memAddr t.M) t.M.valA).mem ∧
      t.mOut = memoryOut t.M (s.mem.write (memAddr t.M) t.M.valA).ok 0#32 := by
  rcases c.memory with ⟨_, reads, _⟩ | ⟨_, _, _, m, e⟩ | ⟨none, _⟩
  · simp [memReads_of_memWrites _ writes] at reads
  · exact ⟨m, e⟩
  · simp [ok, writes] at none

theorem CycleOf.memory_of_none
    (none : t.M.stat ≠ .ok ∨ (memReads t.M.icode = false ∧ memWrites t.M.icode = false)) :
    t.mem = s.mem ∧ t.mOut = memoryOut t.M true 0#32 := by
  rcases c.memory with ⟨ok, reads, _⟩ | ⟨ok, _, writes, _⟩ | ⟨_, m, e⟩
  · simp [ok, reads] at none
  · simp [ok, writes] at none
  · exact ⟨m, e⟩

/-- Whatever the access, the memory wires pass what M holds for write-back (40_pipeline_stages.md R253). -/
theorem CycleOf.mOut_passes :
    t.mOut.icode = t.M.icode ∧ t.mOut.valE = t.M.valE ∧ t.mOut.dstE = t.M.dstE ∧ t.mOut.dstM = t.M.dstM := by
  rcases c.memory with ⟨_, _, _, e⟩ | ⟨_, _, _, _, e⟩ | ⟨_, _, e⟩ <;> simp [e, memoryOut]

end

/-- Settles O41, by the three things memory does for M. -/
theorem memoryStatus : Obligations.MemoryStatus := by
  unfold Obligations.MemoryStatus
  intro s t view running h
  have c := step_cycleOf view running h
  refine ⟨fun ok reads => ?_, fun ok writes => ?_, fun none => ?_⟩
  · rw [(c.memory_of_reads ok reads).2]; rfl
  · rw [(c.memory_of_writes ok writes).2]; rfl
  · rw [(c.memory_of_none none).2]; rfl

/-- Settles O60, by the three things memory does for M and the address of each access. -/
theorem memoryStageAccesses : Obligations.MemoryStageAccesses := by
  unfold Obligations.MemoryStageAccesses
  intro s t view running h
  have c := step_cycleOf view running h
  refine ⟨c.mOut_passes, fun ok load => ?_, fun ok pops => ?_, fun ok stores => ?_, fun none => ?_, fun a failed => ?_⟩
  · have addr : memAddr t.M = t.M.valE := by simp [memAddr_eq_ite, load]
    obtain ⟨m, e⟩ := c.memory_of_reads ok (memReads_iff.mpr (.inl load))
    exact ⟨addr ▸ m, by rw [e, addr]; rfl⟩
  · have addr : memAddr t.M = t.M.valA := by rw [memAddr_eq_ite, if_pos pops]
    obtain ⟨m, e⟩ := c.memory_of_reads ok (memReads_iff.mpr (.inr pops))
    exact ⟨addr ▸ m, by rw [e, addr]; rfl⟩
  · have addr : memAddr t.M = t.M.valE := by
      rw [memAddr_eq_ite, if_neg]
      rcases stores with e | e | e <;> simp [e]
    obtain ⟨m, e⟩ := c.memory_of_writes ok (memWrites_iff.mpr stores)
    exact ⟨addr ▸ m, by rw [e]; rfl⟩
  · obtain ⟨m, e⟩ := c.memory_of_none none
    exact ⟨m, by rw [e]; rfl⟩
  · rw [s.mem.read_failed a failed]

/-- Settles O44: the memory value is written last, and FAULT_WB decides for a stopping status. -/
theorem writeBackCommitsInOrder : Obligations.WriteBackCommitsInOrder := by
  unfold Obligations.WriteBackCommitsInOrder
  exact fun s dE dM vE vM => ⟨fun r => by simp, rfl, fun st faulty =>
    ⟨fun suppress => s.commit_suppress st dE vE dM vM suppress faulty, fun r => s.commit_get st dE vE dM vM r⟩⟩

/-! ## The tables of decode and execute -/

/-- The execute wire for the ALU result of an opcode that is no OPl is its wrapped sum (40_pipeline_stages.md R242). -/
theorem execOut_valE_of_not_opl {E : EReg} (other : E.icode ≠ .iopl) (cc : CC) :
    (execOut E cc).valE = aluBOf E + aluAOf E := by
  rw [← wrap32_add, ← execPre_of_not_opl other]
  rfl

theorem CycleOf.valE_of_not_opl {s t : State} (c : CycleOf s t) (other : t.E.icode ≠ .iopl) :
    t.eOut.valE = aluBOf t.E + aluAOf t.E := by
  rw [c.eOut, execOut_valE_of_not_opl other]

/-- Settles O59: the tables, row by row. -/
theorem secondSourceAndAluInputs : Obligations.SecondSourceAndAluInputs := by
  unfold Obligations.SecondSourceAndAluInputs
  intro s t view running h
  have c := step_cycleOf view running h
  have valB : t.dOut.valB = t.forward t.dOut.srcB := by rw [c.dOut]
  rw [wrap32_add, wrap32_sub_four, wrap32_add_four]
  refine ⟨?_, ?_, ?_, ?_, ?_, ?_, valB, ?_, ?_, ?_, ?_, ?_, ?_, ?_⟩
  · rw [c.dOut]; rintro (e | e | e) <;> simp [srcBOf, e]
  · rw [c.dOut]; rintro (e | e | e) <;> simp [dstEOf, e]
  · rw [c.dOut]; rintro (e | e | e | e) <;> simp [srcBOf, dstEOf, e, espId]
  · rw [c.dOut]; rintro (e | e) <;> simp [srcBOf, e]
  · rw [c.dOut]; rintro (e | e) <;> simp [dstEOf, e]
  · rw [c.dOut]
    cases e : t.D.icode <;> simp [srcBOf, dstEOf, e, ICode.valid]
  · intro e; simp [c.valE_of_not_opl, aluBOf, aluAOf, e]
  · intro e; simp [c.valE_of_not_opl, aluBOf, aluAOf, e]
  · rintro (e | e) <;> simp [c.valE_of_not_opl, aluBOf, aluAOf, e]
  · have four : wrap32 (-4) = -4#32 := rfl
    rw [BitVec.sub_eq_add_neg]
    rintro (e | e) <;> simp [c.valE_of_not_opl, aluBOf, aluAOf, e, four]
  · rintro (e | e) <;> simp [c.valE_of_not_opl, aluBOf, aluAOf, e]
  · intro f opl code
    rw [c.eOut, ← execPre_of_opl opl code]
    rfl
  · intro others
    have other : t.E.icode ≠ .iopl := by rintro e; simp [e, ICode.valid] at others
    rw [c.valE_of_not_opl other]
    cases e : t.E.icode <;> simp [e, ICode.valid] at others <;> simp [aluBOf, aluAOf, e]

end Sys2Proof.Machine
end

section
/-! The statements on invalid opcodes and on function codes without meaning, from fetch to their end (30_encoding.md
section 3). -/

namespace Sys2Proof.Machine

/-- An invalid opcode has no source, no destination and no data access (30_encoding.md R170). -/
theorem tables_of_invalid {D : DReg} (h : D.icode.valid = false) :
    srcAOf D = none ∧ srcBOf D = none ∧ dstEOf D = none ∧ dstMOf D = none ∧
      memReads D.icode = false ∧ memWrites D.icode = false := by
  unfold srcAOf srcBOf dstEOf dstMOf
  cases e : D.icode <;> simp [e, ICode.valid] at h <;> simp [memReads, memWrites]

theorem access_of_invalid {c : ICode} (h : c.valid = false) : memReads c = false ∧ memWrites c = false :=
  (tables_of_invalid (D := { DReg.bubble with icode := c }) h).2.2.2.2

/-- Settles O5: the stages pass the opcode on because no table names it, and the drain stops the machine. -/
theorem invalidOpcodeTravelsAndStops : Obligations.InvalidOpcodeTravelsAndStops := by
  unfold Obligations.InvalidOpcodeTravelsAndStops
  refine ⟨fun image pc b0 rest inside bytes h => fetchAt_invalid inside bytes h, fun D => tables_of_invalid,
    fun s t view running h => ?_, fun s view running stat => ?_⟩
  · have c := step_cycleOf view running h
    refine ⟨fun _ => by rw [c.dOut]; exact ⟨rfl, rfl⟩, fun invalid => ⟨?_, by rw [c.eOut]; exact ⟨rfl, rfl⟩⟩,
      fun invalid => ?_⟩
    · rw [c.cc, if_neg]
      rintro ⟨opl, _⟩
      simp [opl, ICode.valid] at invalid
    · obtain ⟨m, e⟩ := c.memory_of_none (.inr (access_of_invalid invalid))
      exact ⟨m, by rw [e]; exact ⟨rfl, rfl⟩⟩
  · obtain ⟨t, run, halted, stop, _, _, w, _⟩ := drainCommitsNothingYounger s view running (by rw [stat]; rfl)
    exact ⟨t, run, w, halted, stop.trans stat⟩

theorem undefinedFunction_of_code {E : EReg} (h : (E.icode = .iopl ∧ 4 ≤ E.ifun.toNat) ∨
    ((E.icode = .ijxx ∨ E.icode = .irrmovl) ∧ 7 ≤ E.ifun.toNat)) : undefinedFunction E = true := by
  unfold undefinedFunction
  rcases h with ⟨icode, ifun⟩ | ⟨icode | icode, ifun⟩
  · simp [icode, AluFun.ofNibble?_eq_none.mpr ifun]
  · simp [icode, Cond.ofNibble?_eq_none.mpr ifun]
  · simp [icode, Cond.ofNibble?_eq_none.mpr ifun]

/-- A function code without meaning makes the execute stage refuse, behind no fault (30_encoding.md R172). -/
theorem State.executeRefusal_of_undefined {s : State} (stat : s.E.stat = .ok) (noFault : s.olderFault = false)
    (h : (s.E.icode = .iopl ∧ 4 ≤ s.E.ifun.toNat) ∨
      ((s.E.icode = .ijxx ∨ s.E.icode = .irrmovl) ∧ 7 ≤ s.E.ifun.toNat)) :
    s.executeRefusal = some (.undefinedFunctionCode s.E.icode s.E.ifun) := by
  simp [State.executeRefusal, stat, noFault, undefinedFunction_of_code h]

theorem State.backEnd_E {s : State} (latch : s.hazardDecisions.E = .latch) :
    (s.backEnd s.hazardDecisions).E = s.dOut := by
  simp [State.backEnd, latch]

/-- Bytes that decode to a function code without meaning hold fields with that code. -/
theorem readFields_of_undefined {bytes : List Byte} {c : ICode} {f : Nibble}
    (h : decode bytes = .error (.undefinedFunction c f)) :
    ∃ fl rest, readFields bytes = .ok (fl, rest) ∧ fl.Undefined := by
  unfold decode at h
  split at h
  · simp at h
  next fl rest fields =>
    split at h
    · next e none => exact ⟨fl, rest, fields, undefined_of_instrOf (Except.error.inj h ▸ none)⟩
    · simp at h

/-- An opcode with function codes without meaning is fetched with status Ok whatever its code. -/
theorem fetchStatus_of_undefined {fl : Fields} (h : fl.Undefined) : fetchStatus fl.icode = .ok := by
  rcases h with ⟨e, _⟩ | ⟨e | e, _⟩ <;> rw [e] <;> rfl

/-- With a register byte that can be read, a function code without meaning is all that is wrong. -/
theorem decode_of_undefined_registers {b0 b1 : Byte} (regids : (ICode.ofNibble (hi4 b0)).needRegids = true)
    (noValC : (ICode.ofNibble (hi4 b0)).needValC = false) (hA : (hi4 b1).toNat ≤ 8) (hB : (lo4 b1).toNat ≤ 8)
    (undefined : ∀ rA rB, Fields.Undefined ⟨ICode.ofNibble (hi4 b0), lo4 b0, rA, rB, 0#32⟩) (rest : List Byte) :
    decode (b0 :: b1 :: rest) = .error (.undefinedFunction (ICode.ofNibble (hi4 b0)) (lo4 b0)) := by
  obtain ⟨rA, hA⟩ := RegId.exists_ofNibble? hA
  obtain ⟨rB, hB⟩ := RegId.exists_ofNibble? hB
  exact decode_of_readFields (readFields_registers regids noValC hA hB rest) (instrOf_undefined (undefined rA rB))

/-- Settles O6: the decoder's error for such a code, the fetch that does not see it, and the two places of refusal. -/
theorem undefinedFunctionCodesAreRefused : Obligations.UndefinedFunctionCodesAreRefused := by
  unfold Obligations.UndefinedFunctionCodesAreRefused
  refine ⟨fun b0 b1 rest icode ifun hA hB => ?_, fun b0 b1 rest icode ifun hA hB => ?_,
    fun b0 b1 b2 b3 b4 rest icode ifun => ?_, fun s c f view running inside h => ?_,
    fun s view running latch stat noFault h => ?_⟩
  · have e := decode_of_undefined_registers (b0 := b0) (by rw [icode]; rfl) (by rw [icode]; rfl) hA hB
      (fun _ _ => .inl ⟨by rw [icode]; rfl, ifun⟩) rest
    rwa [icode] at e
  · have e := decode_of_undefined_registers (b0 := b0) (by rw [icode]; rfl) (by rw [icode]; rfl) hA hB
      (fun _ _ => .inr ⟨.inr (by rw [icode]; rfl), ifun⟩) rest
    rwa [icode] at e
  · have fields := readFields_immediate (b0 := b0) (by rw [icode]; rfl) (by rw [icode]; rfl) b1 b2 b3 b4 rest
    rw [icode] at fields
    exact decode_of_readFields fields (instrOf_undefined (.inr ⟨.inl rfl, ifun⟩))
  · refine ⟨step_of_undefined view running (by simp [State.fetchInstr, inside, h]), ?_⟩
    obtain ⟨fl, rest, fields, undefined⟩ := readFields_of_undefined h
    rw [fetchAt_of_fields inside fields]
    exact fetchStatus_of_undefined undefined
  · rw [← State.backEnd_E latch] at stat h ⊢
    rw [step_of_clock view running, State.clock]
    simp only [State.executeRefusal_of_undefined stat noFault h]

end Sys2Proof.Machine
end

section
/-! The stages of the pipeline, run one after the other on one instruction and a state of the instruction view: what they
compute is what the step of that view does (40_pipeline_stages.md against files 41 to 45). -/

namespace Sys2Proof.Machine

/-! ## The stages as functions -/

/-- The decode stage with operands read by `read` (40_pipeline_stages.md R220 to R227). -/
def decodeWith (D : DReg) (read : RegId → Word) : EReg :=
  ⟨D.stat, D.icode, D.ifun, D.valC, if D.icode = .icall ∨ D.icode = .ijxx then D.valP else read (srcAOf D),
    read (srcBOf D), dstEOf D, dstMOf D, srcAOf D, srcBOf D⟩

/-- The memory stage on register M: the memory after it, and its wires (40_pipeline_stages.md R250 to R254). -/
def memStage (m : Memory) (M : MReg) : Memory × WReg :=
  if M.stat = .ok ∧ memReads M.icode = true then
    ((m.read (memAddr M)).mem, memoryOut M (m.read (memAddr M)).ok (m.read (memAddr M)).value)
  else if M.stat = .ok ∧ memWrites M.icode = true then
    ((m.write (memAddr M) M.valA).mem, memoryOut M (m.write (memAddr M) M.valA).ok 0#32)
  else (m, memoryOut M true 0#32)

/-- The fetch wires for the next instruction of a state. -/
def State.seqFetch (u : State) : FetchOut := fetchAt u.mem.image u.seqPC

/-- What D holds for the next instruction of a state. -/
def State.seqD (u : State) : DReg := u.seqFetch.toD

/-- What E holds for the next instruction of a state, its operands read from that state. -/
def State.seqE (u : State) : EReg := decodeWith u.seqD u.readReg

/-- What M holds for the next instruction of a state, its condition on the flags of that state. -/
def State.seqM (u : State) : MReg := execOut u.seqE u.cc

/-- Memory after the next instruction of a state. -/
def State.seqMem (u : State) : Memory := (memStage u.mem u.seqM).1

/-- What W holds for the next instruction of a state. -/
def State.seqW (u : State) : WReg := (memStage u.mem u.seqM).2

/-- Where fetch goes on after the next instruction of a state, by the sources of 40_pipeline_stages.md R210. -/
def State.seqNext (u : State) : Word :=
  if u.seqM.icode = .ijxx ∧ u.seqM.cnd = false then u.seqM.valA
  else if u.seqW.icode = .iret then u.seqW.valM
  else u.seqFetch.predPC

/-- `v` is what the stages make of `u` for its next instruction. -/
structure StagesOf (u v : State) : Prop where
  regs : v.regs = (u.commit u.seqW.stat u.seqW.dstE u.seqW.valE u.seqW.dstM u.seqW.valM).regs
  freeIndex : v.freeIndex = (u.commit u.seqW.stat u.seqW.dstE u.seqW.valE u.seqW.dstM u.seqW.valM).freeIndex
  cc : v.cc = if u.seqE.icode = .iopl then flagsOf (execPre u.seqE) else u.cc
  mem : v.mem = u.seqMem
  stat : v.stat = u.seqW.stat
  halted : v.halted = (u.halted || u.seqW.stat.faulty)
  next : u.seqW.stat.faulty = false → v.seqPC = u.seqNext
  cfg : v.cfg = u.cfg

/-! ## What the stages pass on -/

theorem memStage_passes (m : Memory) (M : MReg) :
    (memStage m M).2.icode = M.icode ∧ (memStage m M).2.valE = M.valE ∧ (memStage m M).2.dstE = M.dstE ∧
      (memStage m M).2.dstM = M.dstM ∧ ((memStage m M).2.stat = M.stat ∨ (memStage m M).2.stat = .addressError) := by
  have out (ok : Bool) (v : Word) : (memoryOut M ok v).icode = M.icode ∧ (memoryOut M ok v).valE = M.valE ∧
      (memoryOut M ok v).dstE = M.dstE ∧ (memoryOut M ok v).dstM = M.dstM ∧
      ((memoryOut M ok v).stat = M.stat ∨ (memoryOut M ok v).stat = .addressError) :=
    ⟨rfl, rfl, rfl, rfl, by cases ok <;> simp [memoryOut]⟩
  unfold memStage
  split_ifs <;> exact out ..

theorem memStage_image (m : Memory) (M : MReg) : (memStage m M).1.image = m.image := by
  unfold memStage
  split_ifs <;> simp

theorem memStage_reads {m : Memory} {M : MReg} (ok : M.stat = .ok) (reads : memReads M.icode = true) :
    memStage m M = ((m.read (memAddr M)).mem, memoryOut M (m.read (memAddr M)).ok (m.read (memAddr M)).value) :=
  if_pos ⟨ok, reads⟩

theorem memStage_writes {m : Memory} {M : MReg} (ok : M.stat = .ok) (writes : memWrites M.icode = true) :
    memStage m M = ((m.write (memAddr M) M.valA).mem, memoryOut M (m.write (memAddr M) M.valA).ok 0#32) := by
  rw [memStage, if_neg (by simp [memReads_of_memWrites _ writes]), if_pos ⟨ok, writes⟩]

theorem memStage_none {m : Memory} {M : MReg}
    (none : M.stat ≠ .ok ∨ (memReads M.icode = false ∧ memWrites M.icode = false)) :
    memStage m M = (m, memoryOut M true 0#32) := by
  rw [memStage, if_neg, if_neg]
  · rintro ⟨ok, writes⟩; simp [ok, writes] at none
  · rintro ⟨ok, reads⟩; simp [ok, reads] at none

/-- The memory stage of a cycle. -/
theorem CycleOf.memory_eq {s t : State} (c : CycleOf s t) : (t.mem, t.mOut) = memStage s.mem t.M := by
  rcases c.memory with ⟨ok, reads, m, e⟩ | ⟨ok, _, writes, m, e⟩ | ⟨none, m, e⟩
  · rw [memStage_reads ok reads, m, e]
  · rw [memStage_writes ok writes, m, e]
  · rw [memStage_none none, m, e]

@[simp] theorem State.seqMem_image (u : State) : u.seqMem.image = u.mem.image := memStage_image ..

theorem StagesOf.image {u v : State} (h : StagesOf u v) : v.mem.image = u.mem.image := by
  rw [h.mem, State.seqMem_image]

/-- The opcode of an instruction goes down the pipe unchanged. -/
theorem State.seq_icode (u : State) :
    u.seqD.icode = u.seqFetch.icode ∧ u.seqE.icode = u.seqFetch.icode ∧ u.seqM.icode = u.seqFetch.icode ∧
      u.seqW.icode = u.seqFetch.icode :=
  ⟨rfl, rfl, rfl, (memStage_passes ..).1⟩

theorem fetchAt_stat_ne_bubble (image : List Byte) (pc : Word) : (fetchAt image pc).stat ≠ .bubble := by
  rcases fetchAt_cases image pc with ⟨_, e⟩ | ⟨fl, _, _, _, e⟩
  · rw [e]; simp [fetchFails]
  · rw [e]
    simp only [fetchStatus]
    split_ifs <;> simp

theorem State.seqD_stat_ne_bubble (u : State) : u.seqD.stat ≠ .bubble := fetchAt_stat_ne_bubble _ _

/-- An instruction leaves memory with a status, never as a bubble. -/
theorem State.seqW_stat_ne_bubble (u : State) : u.seqW.stat ≠ .bubble := by
  rcases (memStage_passes u.mem u.seqM).2.2.2.2 with e | e
  · exact e ▸ u.seqD_stat_ne_bubble
  · intro h; rw [State.seqW] at h; simp [e] at h

theorem State.seqW_stat_ok {u : State} (h : u.seqW.stat.faulty = false) : u.seqW.stat = .ok := by
  have := u.seqW_stat_ne_bubble
  cases e : u.seqW.stat <;> simp_all [Status.faulty]

/-! ## The stages against the meanings -/

/-- Behind an access that succeeds or fails, an instruction retires as the stages say when they agree on the access and
on the destinations, with the values of those destinations that are registers. -/
theorem StagesOf.of_retireAccess {u : State} {cc : CC} {m : Memory} {ok : Bool} {dE dM : RegId} {vE vM pc : Word}
    (stat : u.seqW.stat = accessStatus ok) (dstE : u.seqW.dstE = dE) (valE : dE = none ∨ u.seqW.valE = vE)
    (dstM : u.seqW.dstM = dM) (valM : dM = none ∨ u.seqW.valM = vM)
    (flags : cc = if u.seqE.icode = .iopl then flagsOf (execPre u.seqE) else u.cc) (mem : m = u.seqMem)
    (next : ok = true → pc = u.seqNext) :
    StagesOf u (((u.setCC cc).setMem m).retireAccess ok dE vE dM vM pc) := by
  subst dstE dstM
  cases ok with
  | true =>
    have writes : (u.regs.write u.seqW.dstE vE).write u.seqW.dstM vM =
        (u.regs.write u.seqW.dstE u.seqW.valE).write u.seqW.dstM u.seqW.valM := by
      rcases valE with e | e <;> rcases valM with e' | e' <;> simp [e, e']
    exact ⟨by rw [stat]; exact writes, by rw [stat]; rfl, flags, mem, stat.symm, by rw [stat]; rfl, fun _ => next rfl,
      rfl⟩
  | false =>
    have same (v w : Word) : (u.commit .addressError u.seqW.dstE v u.seqW.dstM w).regs =
          (((u.setCC cc).setMem m).commit .addressError u.seqW.dstE vE u.seqW.dstM vM).regs ∧
        (u.commit .addressError u.seqW.dstE v u.seqW.dstM w).freeIndex =
          (((u.setCC cc).setMem m).commit .addressError u.seqW.dstE vE u.seqW.dstM vM).freeIndex :=
      State.commit_regs_congr u ((u.setCC cc).setMem m) .addressError _ _ _ _ rfl rfl rfl
    have status : u.seqW.stat = .addressError := stat
    rw [State.retireAccess_false]
    refine ⟨?_, ?_, ?_, ?_, ?_, ?_, ?_, ?_⟩
    · rw [status]; exact (same _ _).1.symm
    · rw [status]; exact (same _ _).2.symm
    · simp [flags]
    · simp [mem]
    · simp [status]
    · simp [status]
    · simp [status, Status.faulty]
    · simp

/-- The execute wires of an opcode that is no OPl (40_pipeline_stages.md R240 to R247). -/
theorem execOut_of_not_opl {E : EReg} (other : E.icode ≠ .iopl) (cc : CC) :
    execOut E cc =
      ⟨E.stat, E.icode, cndValue E cc, aluBOf E + aluAOf E, E.valA, execDstE E (cndValue E cc), E.dstM⟩ := by
  rw [← execOut_valE_of_not_opl other cc]
  rfl

section
variable {u : State}

/-- A row without a data access. -/
theorem StagesOf.of_none {cc : CC} {dE : RegId} {vE pc : Word} (stat : u.seqM.stat = .ok)
    (none : memReads u.seqM.icode = false ∧ memWrites u.seqM.icode = false) (dstE : u.seqM.dstE = dE)
    (valE : dE = .none ∨ u.seqM.valE = vE) (dstM : u.seqM.dstM = .none)
    (flags : cc = if u.seqE.icode = .iopl then flagsOf (execPre u.seqE) else u.cc) (next : pc = u.seqNext) :
    StagesOf u (((u.setCC cc).commit .ok dE vE .none 0#32).retireTo pc) := by
  have h := memStage_none (m := u.mem) (M := u.seqM) (.inr none)
  have w : u.seqW = memoryOut u.seqM true 0#32 := congrArg Prod.snd h
  have m : u.seqMem = u.mem := congrArg Prod.fst h
  exact .of_retireAccess (ok := true) (m := u.mem) (by rw [w]; exact stat) (by rw [w]; exact dstE)
    (by rw [w]; exact valE) (by rw [w]; exact dstM) (.inl rfl) flags m.symm fun _ => next

/-- A row with a load. -/
theorem StagesOf.of_read {dE dM : RegId} {vE a pc : Word} (stat : u.seqM.stat = .ok)
    (reads : memReads u.seqM.icode = true) (dstE : u.seqM.dstE = dE) (valE : dE = none ∨ u.seqM.valE = vE)
    (dstM : u.seqM.dstM = dM) (addr : memAddr u.seqM = a) (next : pc = u.seqNext) :
    StagesOf u ((u.setMem (u.mem.read a).mem).retireAccess (u.mem.read a).ok dE vE dM (u.mem.read a).value pc) := by
  have h := memStage_reads (m := u.mem) stat reads
  rw [addr] at h
  have w : u.seqW = memoryOut u.seqM (u.mem.read a).ok (u.mem.read a).value := congrArg Prod.snd h
  have m : u.seqMem = (u.mem.read a).mem := congrArg Prod.fst h
  have noFlags : u.seqE.icode ≠ .iopl := by
    intro e
    rw [show u.seqM.icode = .iopl from e] at reads
    simp [memReads] at reads
  exact .of_retireAccess (cc := u.cc) (by rw [w, memoryOut, stat]; rfl) (by rw [w]; exact dstE)
    (by rw [w]; exact valE) (by rw [w]; exact dstM) (.inr (by rw [w]; rfl)) (if_neg noFlags).symm m.symm fun _ => next

/-- A row with a store. -/
theorem StagesOf.of_write {dE : RegId} {vE a v pc : Word} (stat : u.seqM.stat = .ok)
    (writes : memWrites u.seqM.icode = true) (dstE : u.seqM.dstE = dE) (valE : dE = none ∨ u.seqM.valE = vE)
    (dstM : u.seqM.dstM = none) (addr : memAddr u.seqM = a) (data : u.seqM.valA = v) (next : pc = u.seqNext) :
    StagesOf u ((u.setMem (u.mem.write a v).mem).retireAccess (u.mem.write a v).ok dE vE none 0#32 pc) := by
  have h := memStage_writes (m := u.mem) stat writes
  rw [addr, data] at h
  have w : u.seqW = memoryOut u.seqM (u.mem.write a v).ok 0#32 := congrArg Prod.snd h
  have m : u.seqMem = (u.mem.write a v).mem := congrArg Prod.fst h
  have noFlags : u.seqE.icode ≠ .iopl := by
    intro e; rw [show u.seqM.icode = .iopl from e] at writes; simp [memWrites] at writes
  exact .of_retireAccess (cc := u.cc) (by rw [w, memoryOut, stat]; rfl) (by rw [w]; exact dstE)
    (by rw [w]; exact valE) (by rw [w]; exact dstM) (.inl rfl) (if_neg noFlags).symm m.symm fun _ => next

/-- A halt, a failed fetch or an invalid opcode: a stopping status with no destination and no access. -/
theorem StagesOf.of_stop {st : Status} (stat : u.seqM.stat = st) (faulty : st.faulty = true)
    (dstE : u.seqM.dstE = none) (dstM : u.seqM.dstM = none) (noFlags : u.seqE.icode ≠ .iopl) :
    StagesOf u ((u.commit st none 0#32 none 0#32).takeStatus st) := by
  have notOk : u.seqM.stat ≠ .ok := by rw [stat]; rintro rfl; simp [Status.faulty] at faulty
  have notBubble : st ≠ .bubble := by rintro rfl; simp [Status.faulty] at faulty
  have h := memStage_none (m := u.mem) (M := u.seqM) (.inl notOk)
  have w : u.seqW = memoryOut u.seqM true 0#32 := congrArg Prod.snd h
  have m : u.seqMem = u.mem := congrArg Prod.fst h
  have hStat : u.seqW.stat = st := by rw [w]; exact stat
  have hE : u.seqW.dstE = none := by rw [w]; exact dstE
  have hM : u.seqW.dstM = none := by rw [w]; exact dstM
  have noDst (v x : Word) : (u.commit st none v none x).regs = (u.commit st none 0#32 none 0#32).regs ∧
      (u.commit st none v none x).freeIndex = (u.commit st none 0#32 none 0#32).freeIndex := by
    unfold State.commit
    exact ⟨rfl, rfl⟩
  constructor
  case regs => rw [hStat, hE, hM]; exact (noDst _ _).1.symm
  case freeIndex => rw [hStat, hE, hM]; exact (noDst _ _).2.symm
  case cc => simp [noFlags]
  case mem => simp [m]
  case stat => simp [hStat, notBubble]
  case halted => simp [hStat]
  case next => simp [hStat, faulty]
  case cfg => simp

/-- Fetch goes on where it was predicted to, unless a jump's condition failed or a ret has read its address. -/
theorem State.seqNext_eq_predPC (jump : u.seqM.icode = .ijxx → u.seqM.cnd = true) (ret : u.seqFetch.icode ≠ .iret) :
    u.seqNext = u.seqFetch.predPC := by
  rw [State.seqNext, if_neg, if_neg]
  · rw [u.seq_icode.2.2.2]; exact ret
  · rintro ⟨e, cnd⟩; simp [jump e] at cnd

end

/-! ## Row by row -/

/-- The fetch wires for the fields of an instruction at an address (40_pipeline_stages.md R211 to R219). -/
def fetchOf (pc : Word) (fl : Fields) : FetchOut :=
  ⟨pc, fetchStatus fl.icode, fl.icode, fl.ifun, fl.rA, fl.rB, fl.valC, pc + BitVec.ofNat 32 fl.icode.length,
    predictPC fl.icode fl.valC (pc + BitVec.ofNat 32 fl.icode.length)⟩

section
variable {u v : State}

/-- What E holds for the fields of an instruction. -/
theorem State.seqE_of_fetchOf {fl : Fields} (fetched : u.seqFetch = fetchOf u.seqPC fl) :
    u.seqE = decodeWith (fetchOf u.seqPC fl).toD u.readReg := by
  rw [State.seqE, State.seqD, fetched]

/-- What M holds for an opcode that is neither an OPl nor a register move. -/
theorem State.seqM_of_seqE {E : EReg} (hE : u.seqE = E) (noOpl : E.icode ≠ .iopl) (noMove : E.icode ≠ .irrmovl) :
    u.seqM = ⟨E.stat, E.icode, cndValue E u.cc, aluBOf E + aluAOf E, E.valA, E.dstE, E.dstM⟩ := by
  rw [State.seqM, hE, execOut_of_not_opl noOpl, execDstE, if_neg (by simp [noMove])]

/-- The next address of a row that neither jumps nor returns is the byte after it. -/
theorem State.seqNext_of_fetchOf {fl : Fields} (fetched : u.seqFetch = fetchOf u.seqPC fl)
    (plain : fl.icode ≠ .ijxx ∧ fl.icode ≠ .icall ∧ fl.icode ≠ .iret) :
    u.seqNext = u.seqPC + BitVec.ofNat 32 fl.icode.length := by
  rw [State.seqNext_eq_predPC, fetched]
  · simp [fetchOf, predictPC, plain]
  · rw [u.seq_icode.2.2.1, fetched]
    exact fun jump => absurd jump plain.1
  · rw [fetched]
    exact plain.2.2

theorem State.moveWhen_stagesOf {c : Cond} {rA rB : RegId}
    (fetched : u.seqFetch = fetchOf u.seqPC ⟨.irrmovl, c.toNibble, rA, rB, 0#32⟩)
    (run : u.moveWhen c rA rB = .next v) : StagesOf u v := by
  obtain ⟨-, e⟩ := usingSource_next.mp run
  obtain rfl := Host.Outcome.next.inj e
  have hE : u.seqE = ⟨.ok, .irrmovl, c.toNibble, 0#32, u.readReg rA, 0#32, rB, none, rA, none⟩ :=
    State.seqE_of_fetchOf fetched
  have hM : u.seqM = ⟨.ok, .irrmovl, condHolds c u.cc, u.readReg rA, u.readReg rA,
      if condHolds c u.cc then rB else none, none⟩ := by
    rw [State.seqM, hE, execOut_of_not_opl (by simp)]
    cases h : condHolds c u.cc <;> simp [cndValue, execDstE, aluBOf, aluAOf, h]
  exact .of_none (cc := u.cc) (by rw [hM]) (by rw [hM]; exact ⟨rfl, rfl⟩) (by rw [hM]) (.inr (by rw [hM])) (by rw [hM])
    (by rw [hE]; rfl) (State.seqNext_of_fetchOf fetched (by simp)).symm

theorem State.aluOp_stagesOf {f : AluFun} {rA rB : RegId}
    (fetched : u.seqFetch = fetchOf u.seqPC ⟨.iopl, f.toNibble, rA, rB, 0#32⟩)
    (run : u.aluOp f rA rB = .next v) : StagesOf u v := by
  obtain ⟨-, -, e⟩ := usingSources_next.mp run
  obtain rfl := Host.Outcome.next.inj e
  have hE : u.seqE = ⟨.ok, .iopl, f.toNibble, 0#32, u.readReg rA, u.readReg rB, rB, none, rA, rB⟩ :=
    State.seqE_of_fetchOf fetched
  have pre : execPre u.seqE = aluPre f (u.readReg rB) (u.readReg rA) := by
    rw [hE]
    exact execPre_of_opl rfl f.ofNibble?_toNibble
  have icode : u.seqE.icode = .iopl := by rw [hE]
  exact .of_none (by rw [State.seqM, hE]; rfl) (by rw [State.seqM, hE]; exact ⟨rfl, rfl⟩) (by rw [State.seqM, hE]; rfl)
    (.inr (by rw [← pre]; rfl)) (by rw [State.seqM, hE]; rfl) (by rw [if_pos icode, pre])
    (State.seqNext_of_fetchOf fetched (by simp)).symm

/-- The condition of a jump, as the execute stage finds it. -/
theorem State.seqM_jump {c : Cond} {dest : Word}
    (fetched : u.seqFetch = fetchOf u.seqPC ⟨.ijxx, c.toNibble, none, none, dest⟩) :
    u.seqM.icode = .ijxx ∧ u.seqM.cnd = condHolds c u.cc := by
  have hE := State.seqE_of_fetchOf fetched
  rw [State.seqM_of_seqE hE (by exact ICode.noConfusion) (by exact ICode.noConfusion)]
  exact ⟨rfl, by simp [cndValue, decodeWith, fetchOf, FetchOut.toD]⟩

theorem State.jumpWhen_stagesOf {c : Cond} {dest : Word}
    (fetched : u.seqFetch = fetchOf u.seqPC ⟨.ijxx, c.toNibble, none, none, dest⟩)
    (run : u.jumpWhen c dest = .next v) : StagesOf u v := by
  obtain rfl := Host.Outcome.next.inj run
  have hE : u.seqE = ⟨.ok, .ijxx, c.toNibble, dest, u.seqPC + 5#32, 0#32, none, none, none, none⟩ :=
    State.seqE_of_fetchOf fetched
  have hM := State.seqM_of_seqE hE (by simp) (by simp)
  have fallThrough : u.seqM.icode = .ijxx ∧ u.seqM.valA = u.seqPC + 5#32 := by rw [hM]; exact ⟨rfl, rfl⟩
  have next : u.seqNext = if condHolds c u.cc then dest else u.seqPC + 5#32 := by
    rw [← (State.seqM_jump fetched).2]
    cases taken : u.seqM.cnd with
    | true =>
      rw [State.seqNext_eq_predPC (fun _ => taken) (by rw [fetched]; simp [fetchOf]), fetched]
      rfl
    | false => rw [State.seqNext, if_pos ⟨fallThrough.1, taken⟩, fallThrough.2]; rfl
  exact .of_none (cc := u.cc) (vE := 0#32) (by rw [hM]) (by rw [hM]; exact ⟨rfl, rfl⟩) (by rw [hM]) (.inl rfl)
    (by rw [hM]) (by rw [hE]; rfl) next.symm

end

section
variable {u v : State} {ifun : Nibble} {rA rB : RegId} {w : Word}

theorem execNop_stagesOf (fetched : u.seqFetch = fetchOf u.seqPC ⟨.inop, ifun, none, none, 0#32⟩)
    (run : execNop ifun u = .next v) : StagesOf u v := by
  obtain rfl := Host.Outcome.next.inj run
  have hE := State.seqE_of_fetchOf fetched
  have hM := State.seqM_of_seqE hE (by exact ICode.noConfusion) (by exact ICode.noConfusion)
  exact .of_none (cc := u.cc) (vE := 0#32) (by rw [hM]; rfl) (by rw [hM]; exact ⟨rfl, rfl⟩) (by rw [hM]; rfl) (.inl rfl)
    (by rw [hM]; rfl) (by rw [hE]; rfl) (State.seqNext_of_fetchOf fetched (by simp)).symm

theorem execIrmovl_stagesOf (fetched : u.seqFetch = fetchOf u.seqPC ⟨.iirmovl, ifun, rA, rB, w⟩)
    (run : execIrmovl ifun rA rB w u = .next v) : StagesOf u v := by
  obtain rfl := Host.Outcome.next.inj run
  have hE := State.seqE_of_fetchOf fetched
  have hM := State.seqM_of_seqE hE (by exact ICode.noConfusion) (by exact ICode.noConfusion)
  exact .of_none (cc := u.cc) (by rw [hM]; rfl) (by rw [hM]; exact ⟨rfl, rfl⟩) (by rw [hM]; rfl)
    (.inr (by rw [hM]; exact BitVec.zero_add w)) (by rw [hM]; rfl) (by rw [hE]; rfl)
    (State.seqNext_of_fetchOf fetched (by simp)).symm

theorem execRmmovl_stagesOf (fetched : u.seqFetch = fetchOf u.seqPC ⟨.irmmovl, ifun, rA, rB, w⟩)
    (run : execRmmovl ifun rA rB w u = .next v) : StagesOf u v := by
  obtain ⟨-, -, e⟩ := usingSources_next.mp run
  obtain rfl := Host.Outcome.next.inj e
  have hM := State.seqM_of_seqE (State.seqE_of_fetchOf fetched) (by exact ICode.noConfusion) (by exact ICode.noConfusion)
  exact .of_write (by rw [hM]; rfl) (by rw [hM]; rfl) (by rw [hM]; rfl) (.inl rfl) (by rw [hM]; rfl) (by rw [hM]; rfl)
    (by rw [hM]; rfl) (State.seqNext_of_fetchOf fetched (by simp)).symm

theorem execMrmovl_stagesOf (fetched : u.seqFetch = fetchOf u.seqPC ⟨.imrmovl, ifun, rA, rB, w⟩)
    (run : execMrmovl ifun rA rB w u = .next v) : StagesOf u v := by
  obtain ⟨-, e⟩ := usingSource_next.mp run
  obtain rfl := Host.Outcome.next.inj e
  have hM := State.seqM_of_seqE (State.seqE_of_fetchOf fetched) (by exact ICode.noConfusion) (by exact ICode.noConfusion)
  exact .of_read (by rw [hM]; rfl) (by rw [hM]; rfl) (by rw [hM]; rfl) (.inl rfl) (by rw [hM]; rfl) (by rw [hM]; rfl)
    (State.seqNext_of_fetchOf fetched (by simp)).symm

theorem execPushl_stagesOf (fetched : u.seqFetch = fetchOf u.seqPC ⟨.ipushl, ifun, rA, rB, 0#32⟩)
    (run : execPushl ifun rA rB u = .next v) : StagesOf u v := by
  obtain ⟨-, e⟩ := usingSource_next.mp run
  obtain rfl := Host.Outcome.next.inj e
  have hM := State.seqM_of_seqE (State.seqE_of_fetchOf fetched) (by exact ICode.noConfusion) (by exact ICode.noConfusion)
  have sp : u.seqM.valE = u.readReg espId - 4#32 := by
    rw [hM, BitVec.sub_eq_add_neg]; rfl
  exact .of_write (by rw [hM]; rfl) (by rw [hM]; rfl) (by rw [hM]; rfl) (.inr sp) (by rw [hM]; rfl)
    (by rw [← sp, hM]; rfl) (by rw [hM]; rfl) (State.seqNext_of_fetchOf fetched (by simp)).symm

theorem execPopl_stagesOf (fetched : u.seqFetch = fetchOf u.seqPC ⟨.ipopl, ifun, rA, rB, 0#32⟩)
    (run : execPopl ifun rA rB u = .next v) : StagesOf u v := by
  obtain rfl := Host.Outcome.next.inj run
  have hM := State.seqM_of_seqE (State.seqE_of_fetchOf fetched) (by exact ICode.noConfusion) (by exact ICode.noConfusion)
  exact .of_read (by rw [hM]; rfl) (by rw [hM]; rfl) (by rw [hM]; rfl) (.inr (by rw [hM]; rfl)) (by rw [hM]; rfl)
    (by rw [hM]; rfl) (State.seqNext_of_fetchOf fetched (by simp)).symm

theorem execCall_stagesOf (fetched : u.seqFetch = fetchOf u.seqPC ⟨.icall, ifun, none, none, w⟩)
    (run : execCall ifun w u = .next v) : StagesOf u v := by
  obtain rfl := Host.Outcome.next.inj run
  have hM := State.seqM_of_seqE (State.seqE_of_fetchOf fetched) (by exact ICode.noConfusion) (by exact ICode.noConfusion)
  have sp : u.seqM.valE = u.readReg espId - 4#32 := by
    rw [hM, BitVec.sub_eq_add_neg]; rfl
  have next : u.seqNext = w := by
    rw [State.seqNext_eq_predPC (by rw [hM]; exact ICode.noConfusion) (by rw [fetched]; exact ICode.noConfusion), fetched]
    rfl
  exact .of_write (by rw [hM]; rfl) (by rw [hM]; rfl) (by rw [hM]; rfl) (.inr sp) (by rw [hM]; rfl)
    (by rw [← sp, hM]; rfl) (by rw [hM]; rfl) next.symm

theorem execRet_stagesOf (fetched : u.seqFetch = fetchOf u.seqPC ⟨.iret, ifun, none, none, 0#32⟩)
    (run : execRet ifun u = .next v) : StagesOf u v := by
  obtain rfl := Host.Outcome.next.inj run
  have hM := State.seqM_of_seqE (State.seqE_of_fetchOf fetched) (by exact ICode.noConfusion) (by exact ICode.noConfusion)
  have reads : memReads u.seqM.icode = true := by rw [hM]; rfl
  have stat : u.seqM.stat = .ok := by rw [hM]; rfl
  have addr : memAddr u.seqM = u.readReg espId := by rw [hM]; rfl
  have next : u.seqNext = (u.mem.read (u.readReg espId)).value := by
    rw [State.seqNext, if_neg (by rw [hM]; exact fun h => ICode.noConfusion h.1),
      if_pos (by rw [u.seq_icode.2.2.2, fetched]; rfl), State.seqW, memStage_reads stat reads, addr]
    rfl
  exact .of_read stat reads (by rw [hM]; rfl) (.inr (by rw [hM]; rfl)) (by rw [hM]; rfl) addr next.symm

end

/-! ## Every instruction, and a stop at fetch -/

theorem State.seqFetch_of_instrAt {u : State} {i : Instr} (h : u.instrAt i) :
    u.seqFetch = fetchOf u.seqPC i.fields := by
  obtain ⟨inside, rest, bytes⟩ := h
  exact fetchAt_of_fields inside (decode_ok bytes)

/-- The stages do with an instruction what its meaning does. -/
theorem exec_stagesOf {u v : State} {i : Instr} (h : u.instrAt i) (run : exec i u = .next v) : StagesOf u v := by
  have fetched := State.seqFetch_of_instrAt h
  cases i with
  | halt ifun =>
    obtain rfl := Host.Outcome.next.inj run
    have hE := State.seqE_of_fetchOf fetched
    have hM := State.seqM_of_seqE hE (by exact ICode.noConfusion) (by exact ICode.noConfusion)
    exact .of_stop (by rw [hM]; rfl) rfl (by rw [hM]; rfl) (by rw [hM]; rfl) (by rw [hE]; exact ICode.noConfusion)
  | nop => exact execNop_stagesOf fetched run
  | rrmovl => exact State.moveWhen_stagesOf (c := .always) fetched run
  | cmovle => exact State.moveWhen_stagesOf (c := .le) fetched run
  | cmovl => exact State.moveWhen_stagesOf (c := .l) fetched run
  | cmove => exact State.moveWhen_stagesOf (c := .e) fetched run
  | cmovne => exact State.moveWhen_stagesOf (c := .ne) fetched run
  | cmovge => exact State.moveWhen_stagesOf (c := .ge) fetched run
  | cmovg => exact State.moveWhen_stagesOf (c := .g) fetched run
  | irmovl => exact execIrmovl_stagesOf fetched run
  | rmmovl => exact execRmmovl_stagesOf fetched run
  | mrmovl => exact execMrmovl_stagesOf fetched run
  | addl => exact State.aluOp_stagesOf (f := .add) fetched run
  | subl => exact State.aluOp_stagesOf (f := .sub) fetched run
  | andl => exact State.aluOp_stagesOf (f := .and) fetched run
  | xorl => exact State.aluOp_stagesOf (f := .xor) fetched run
  | jmp => exact State.jumpWhen_stagesOf (c := .always) fetched run
  | jle => exact State.jumpWhen_stagesOf (c := .le) fetched run
  | jl => exact State.jumpWhen_stagesOf (c := .l) fetched run
  | je => exact State.jumpWhen_stagesOf (c := .e) fetched run
  | jne => exact State.jumpWhen_stagesOf (c := .ne) fetched run
  | jge => exact State.jumpWhen_stagesOf (c := .ge) fetched run
  | jg => exact State.jumpWhen_stagesOf (c := .g) fetched run
  | call => exact execCall_stagesOf fetched run
  | ret => exact execRet_stagesOf fetched run
  | pushl => exact execPushl_stagesOf fetched run
  | popl => exact execPopl_stagesOf fetched run

/-- The execute stage does not refuse what E holds (30_encoding.md R172, R174). -/
def EReg.Admitted (E : EReg) : Prop := E.stat = .ok → undefinedFunction E = false ∧ usesNoneSource E = false

/-- The execute stage refuses an instruction exactly when it is not well formed. -/
theorem refusal_of_fields (i : Instr) (pc : Word) (read : RegId → Word) :
    undefinedFunction (decodeWith (fetchOf pc i.fields).toD read) = false ∧
      usesNoneSource (decodeWith (fetchOf pc i.fields).toD read) = !i.wellFormed := by
  cases i with
  | halt | nop | irmovl | jmp | jle | jl | je | jne | jge | jg | call | ret | popl => exact ⟨rfl, rfl⟩
  | rrmovl rA | cmovle rA | cmovl rA | cmove rA | cmovne rA | cmovge rA | cmovg rA => cases rA <;> exact ⟨rfl, rfl⟩
  | pushl _ rA => cases rA <;> exact ⟨rfl, rfl⟩
  | mrmovl _ _ rB => cases rB <;> exact ⟨rfl, rfl⟩
  | rmmovl _ rA rB => cases rA <;> cases rB <;> exact ⟨rfl, rfl⟩
  | addl rA rB | subl rA rB | andl rA rB | xorl rA rB => cases rA <;> cases rB <;> exact ⟨rfl, rfl⟩

/-- An instruction that uses a RNONE source is fetched with status Ok. -/
theorem fetchStatus_of_not_wellFormed {i : Instr} (h : i.wellFormed = false) : fetchStatus i.fields.icode = .ok := by
  cases i with
  | halt => simp [Instr.wellFormed, Instr.usedSources] at h
  | _ => rfl

/-- The execute stage admits an instruction exactly when its meaning has a next state. -/
theorem State.admitted_iff {u : State} {i : Instr} (h : u.instrAt i) :
    u.seqE.Admitted ↔ ∃ v, exec i u = .next v := by
  obtain ⟨undefined, source⟩ := refusal_of_fields i u.seqPC u.readReg
  have stat : u.seqE.stat = fetchStatus i.fields.icode := by
    rw [State.seqE_of_fetchOf (State.seqFetch_of_instrAt h)]; rfl
  rw [← State.seqE_of_fetchOf (State.seqFetch_of_instrAt h)] at undefined source
  obtain ⟨complete, refused⟩ := admittedInstructionsAlwaysComplete i u
  cases wf : i.wellFormed with
  | true => exact ⟨fun _ => complete wf, fun _ _ => ⟨undefined, by simp [source, wf]⟩⟩
  | false =>
    have ok := stat.trans (fetchStatus_of_not_wellFormed wf)
    exact ⟨fun admitted => absurd (admitted ok).2 (by simp [source, wf]), by simp [refused wf]⟩

/-- What the fetch of the instruction view finds is what the fetch stage puts on its wires. -/
theorem State.fetchInstr_cases (u : State) :
    (∃ i, u.fetchInstr = .instr i ∧ u.instrAt i) ∨
    (u.fetchInstr = .stop .addressError ∧ u.seqFetch = fetchFails u.seqPC) ∨
    (u.fetchInstr = .stop .invalidInstruction ∧ ∃ fl, u.seqFetch = fetchOf u.seqPC fl ∧ fl.icode.valid = false) ∨
    (∃ c f fl, u.fetchInstr = .undefined c f ∧ u.seqFetch = fetchOf u.seqPC fl ∧ fl.Undefined) := by
  cases outside : outsideImage u.mem.image u.seqPC with
  | true => exact .inr (.inl ⟨by simp [State.fetchInstr, outside], fetchAt_of_outside outside⟩)
  | false =>
    cases fields : readFields (u.mem.image.drop u.seqPC.toNat) with
    | error e =>
      exact .inr (.inl ⟨by simp [State.fetchInstr, outside, decode, fields], fetchAt_of_error fields⟩)
    | ok read =>
      obtain ⟨fl, rest⟩ := read
      have fetched : u.seqFetch = fetchOf u.seqPC fl := fetchAt_of_fields outside fields
      cases named : instrOf fl with
      | ok i =>
        have h : decode (u.mem.image.drop u.seqPC.toNat) = .ok (i, rest) := by simp only [decode, fields, named]
        exact .inl ⟨i, State.fetchInstr_of_decode outside h, outside, rest, h⟩
      | error e =>
        have h := decode_of_readFields fields named
        rcases instrOf_error named with ⟨rfl, invalid⟩ | ⟨rfl, undefined⟩
        · exact .inr (.inr (.inl ⟨by simp [State.fetchInstr, outside, h], fl, fetched, invalid⟩))
        · exact .inr (.inr (.inr ⟨fl.icode, fl.ifun, fl, by simp [State.fetchInstr, outside, h], fetched, undefined⟩))

section
variable {u v : State}

/-- A failed fetch stops the machine as the stages do with its no-op. -/
theorem State.stopAtFetch_stagesOf_fails (fetched : u.seqFetch = fetchFails u.seqPC) :
    StagesOf u (u.stopAtFetch .addressError) := by
  have hE : u.seqE = decodeWith (fetchFails u.seqPC).toD u.readReg := by rw [State.seqE, State.seqD, fetched]
  have hM := State.seqM_of_seqE hE (by exact ICode.noConfusion) (by exact ICode.noConfusion)
  exact .of_stop (by rw [hM]; rfl) rfl (by rw [hM]; rfl) (by rw [hM]; rfl) (by rw [hE]; exact ICode.noConfusion)

/-- An invalid opcode stops the machine as the stages do, which pass it on. -/
theorem State.stopAtFetch_stagesOf_invalid {fl : Fields} (fetched : u.seqFetch = fetchOf u.seqPC fl)
    (invalid : fl.icode.valid = false) : StagesOf u (u.stopAtFetch .invalidInstruction) := by
  have hE := State.seqE_of_fetchOf fetched
  obtain ⟨_, _, dstE, dstM, _⟩ := tables_of_invalid (D := (fetchOf u.seqPC fl).toD) invalid
  have noOpl : fl.icode ≠ .iopl := by intro e; simp [e, ICode.valid] at invalid
  have noMove : fl.icode ≠ .irrmovl := by intro e; simp [e, ICode.valid] at invalid
  have noHalt : fl.icode ≠ .ihalt := by intro e; simp [e, ICode.valid] at invalid
  have hM := State.seqM_of_seqE hE noOpl noMove
  have stat : fetchStatus fl.icode = .invalidInstruction := by simp [fetchStatus, noHalt, invalid]
  exact .of_stop (by rw [hM]; exact stat) rfl (by rw [hM]; exact dstE) (by rw [hM]; exact dstM)
    (by rw [hE]; exact noOpl)

/-- What the execute stage finds in a function code without meaning. -/
theorem not_admitted_of_undefined {fl : Fields} (fetched : u.seqFetch = fetchOf u.seqPC fl) (undefined : fl.Undefined) :
    ¬ u.seqE.Admitted := by
  have hE := State.seqE_of_fetchOf fetched
  have stat : u.seqE.stat = .ok := by rw [hE]; exact fetchStatus_of_undefined undefined
  have refused : undefinedFunction u.seqE = true := by
    rw [hE]
    exact undefinedFunction_of_code undefined
  exact fun admitted => absurd (admitted stat).1 (by simp [refused])

/-- A step of the instruction view is what the stages make of the state, when the execute stage admits what it finds. -/
theorem State.next_of_admitted (running : u.halted = false) (admitted : u.seqE.Admitted) :
    ∃ v, u.stepInstruction = .next v ∧ StagesOf u v := by
  rcases u.fetchInstr_cases with ⟨i, found, at_⟩ | ⟨found, fetched⟩ | ⟨found, fl, fetched, invalid⟩ |
    ⟨c, f, fl, _, fetched, undefined⟩
  · obtain ⟨v, run⟩ := (State.admitted_iff at_).mp admitted
    exact ⟨v, by simp [State.stepInstruction, running, found, run], exec_stagesOf at_ run⟩
  · exact ⟨_, by simp [State.stepInstruction, running, found], State.stopAtFetch_stagesOf_fails fetched⟩
  · exact ⟨_, by simp [State.stepInstruction, running, found], State.stopAtFetch_stagesOf_invalid fetched invalid⟩
  · exact absurd admitted (not_admitted_of_undefined fetched undefined)

end

end Sys2Proof.Machine
end

section
/-! The invariant of the pipeline: every stage holds what the stages make of one state of the instruction view, the state
left by the instruction before it (70_reset_and_hazards.md R630). -/

namespace Sys2Proof.Machine

/-! ## Slots -/

/-- M, or the execute wires, hold no instruction. -/
structure MReg.Empty (M : MReg) : Prop where
  stat : M.stat = .bubble
  icode : M.icode = .inop
  dstE : M.dstE = none
  dstM : M.dstM = none

/-- W, or the memory wires, hold no instruction. -/
structure WReg.Empty (W : WReg) : Prop where
  stat : W.stat = .bubble
  icode : W.icode = .inop
  dstE : W.dstE = none
  dstM : W.dstM = none

/-- The state after the next instruction of `u`, in the instruction view. -/
structure Next (u v : State) : Prop where
  running : u.halted = false
  run : u.stepInstruction = .next v
  stages : StagesOf u v

theorem Next.unique {u v w : State} (h : Next u v) (k : Next u w) : v = w :=
  Host.Outcome.next.inj (h.run.symm.trans k.run)

/-- A stage is empty, or holds the next instruction of `u`, which leads to `v`. -/
inductive Slot (empty full : Prop) (u v : State) : Prop
  | empty (h : empty) (same : v = u)
  | full (h : full) (next : Next u v)

theorem Slot.image {empty full : Prop} {u v : State} (h : Slot empty full u v) : v.mem.image = u.mem.image := by
  cases h with
  | empty _ same => rw [same]
  | full _ next => exact next.stages.image

/-! ## The invariant -/

/-- What D and fetch hold, when every older instruction is known to lead to `u`: the instruction at `u`'s next address
and then fetch at the address predicted for it; or a bubble, and fetch at `u`'s next address; or a bubble, waiting for
a ret in E or M. -/
inductive Front (t u : State) : Prop
  | decoded (noRet : t.E.icode ≠ .iret ∧ t.M.icode ≠ .iret) (d : t.D = u.seqD)
      (pred : t.F.predPC = u.seqFetch.predPC) (pc : t.fetchPC = t.F.predPC)
      (fOut : t.fOut = fetchAt t.mem.image t.fetchPC)
  | fetching (noRet : t.E.icode ≠ .iret ∧ t.M.icode ≠ .iret) (d : t.D = DReg.bubble) (pc : t.fetchPC = u.seqPC)
      (fOut : t.fOut = fetchAt t.mem.image t.fetchPC ∨ (t.fOut.toD = DReg.bubble ∧ t.fOut.predPC = t.fetchPC))
  | retInE (d : t.D = DReg.bubble) (e : t.E.icode = .iret)
  | retInM (d : t.D = DReg.bubble) (e : t.E = EReg.bubble) (m : t.M.icode = .iret)

/-- The part of the pipeline younger than M, when M has not faulted: `uM` is the state after the instruction in M, and
`uE` the one after the instruction in E. D and fetch are on the right path unless E mispredicts. -/
structure Younger (t uM uE : State) : Prop where
  e : Slot (t.E = EReg.bubble ∧ t.eOut.Empty) (t.E = uM.seqE ∧ t.eOut = uM.seqM) uM uE
  cc : t.cc = uE.cc
  front : uE.halted = false → t.mispredict = false → Front t uE

/-- The pipeline in the middle of a run: `uW` is the state after the instructions that have retired, `uM` the state after
the instruction in M, and `uE` the one after the instruction in E. -/
structure Flight (t uW uM uE : State) : Prop where
  alive : uW.halted = false
  noStop : t.W.stat.faulty = false
  regs : t.regs = uW.regs
  freeIndex : t.freeIndex = uW.freeIndex
  cfg : t.cfg = uW.cfg
  stat : t.stat = uW.stat
  written : (t.regs.write t.W.dstE t.W.valE).write t.W.dstM t.W.valM = t.regs
  m : Slot (t.M.Empty ∧ t.mOut.Empty) (t.M = uW.seqM ∧ t.mOut = uW.seqW) uW uM
  mem : t.mem = uM.mem
  dOut : t.dOut = decodeWith t.D t.forward
  faulted : t.mOut.stat.faulty = true → t.cc = uM.cc
  younger : t.mOut.stat.faulty = false → Younger t uM uE

/-- An empty pipeline, before its first cycle. -/
theorem State.Quiescent.flight {s : State} (h : s.Quiescent) : Flight s s s s := by
  have emptyM : MReg.bubble.Empty := ⟨rfl, rfl, rfl, rfl⟩
  have emptyW : WReg.bubble.Empty := ⟨rfl, rfl, rfl, rfl⟩
  have pc : s.fetchPC = s.seqPC := by simp [State.fetchPC, h.m, h.w, MReg.bubble, WReg.bubble, State.seqPC]
  refine ⟨h.running, by rw [h.w]; rfl, rfl, rfl, rfl, rfl, by rw [h.w]; rfl,
    .empty (by rw [h.m, h.mOut]; exact ⟨emptyM, emptyW⟩) rfl, rfl, ?_, fun _ => rfl,
    fun _ => ⟨.empty (by rw [h.e, h.eOut]; exact ⟨rfl, emptyM⟩) rfl, rfl, fun _ _ => ?_⟩⟩
  · rw [h.dOut, h.d]; rfl
  · exact .fetching (by rw [h.e, h.m]; exact ⟨by simp [EReg.bubble], by simp [MReg.bubble]⟩) h.d pc
      (.inr ⟨h.fOut.1, by rw [h.fOut.2, pc]; rfl⟩)

/-! ## What the invariant says of the registers and of decode -/

section
variable {t uW uM uE : State}

theorem Flight.mOut_icode (f : Flight t uW uM uE) : t.mOut.icode = t.M.icode := by
  cases f.m with
  | empty h _ => rw [h.1.icode, h.2.icode]
  | full h _ => rw [h.1, h.2, uW.seq_icode.2.2.1, uW.seq_icode.2.2.2]

/-- An instruction that leaves memory without a fault has not ended the run. -/
theorem Flight.uM_running (f : Flight t uW uM uE) (ok : t.mOut.stat.faulty = false) : uM.halted = false := by
  cases f.m with
  | empty _ same => rw [same, f.alive]
  | full h next => rw [next.stages.halted, f.alive, ← h.2, ok]; rfl

/-- An instruction that leaves memory without a fault writes its results, ALU result first. -/
theorem StagesOf.regs_of_ok {u v : State} (h : StagesOf u v) (ok : u.seqW.stat.faulty = false) :
    v.regs = (u.regs.write u.seqW.dstE u.seqW.valE).write u.seqW.dstM u.seqW.valM := by
  rw [h.regs, State.seqW_stat_ok ok, State.commit_ok]
  rfl

theorem Flight.uM_regs (f : Flight t uW uM uE) (ok : t.mOut.stat.faulty = false) :
    uM.regs = (t.regs.write t.M.dstE t.M.valE).write t.M.dstM t.mOut.valM := by
  cases f.m with
  | empty h same => rw [h.1.dstE, h.1.dstM, same, f.regs]; rfl
  | full h next =>
    obtain ⟨_, valE, dstE, dstM, _⟩ := memStage_passes uW.mem uW.seqM
    rw [h.2] at ok
    rw [next.stages.regs_of_ok ok, h.1, h.2, f.regs, State.seqW, valE, dstE, dstM]

theorem Younger.uE_regs (y : Younger t uM uE) (running : uE.halted = false) :
    ∃ valM, uE.regs = (uM.regs.write t.eOut.dstE t.eOut.valE).write t.E.dstM valM := by
  cases y.e with
  | empty h same => exact ⟨0#32, by rw [h.1, h.2.dstE, same]; rfl⟩
  | full h next =>
    obtain ⟨_, valE, dstE, dstM, _⟩ := memStage_passes uM.mem uM.seqM
    have ok : uM.seqW.stat.faulty = false := by
      rw [next.stages.halted, Bool.or_eq_false_iff] at running
      exact running.2
    exact ⟨uM.seqW.valM, by rw [next.stages.regs_of_ok ok, h.1, h.2, State.seqW, valE, dstE, dstM]; rfl⟩

/-- Forwarding gives the value the register has after the instruction in E, unless that one is still to load it. -/
theorem Flight.forward_eq (f : Flight t uW uM uE) (ok : t.mOut.stat.faulty = false) (running : uE.halted = false)
    {r : RegId} (noLoad : r ≠ none → t.E.dstM ≠ r) : t.forward r = uE.readReg r := by
  cases r with
  | none => rfl
  | some r =>
    obtain ⟨valM, regs⟩ := (f.younger ok).uE_regs running
    rw [(forwardingGivesTheNewestValue t r).1, f.written, ← f.uM_regs ok, State.readReg_eq, RegFile.read_some, regs,
      RegFile.get_write _ t.E.dstM, if_neg (noLoad (by simp))]

/-- Only a load has a memory destination (40_pipeline_stages.md R224). -/
theorem Younger.load_of_dstM (y : Younger t uM uE) (h : t.E.dstM ≠ none) :
    t.E.icode = .imrmovl ∨ t.E.icode = .ipopl := by
  cases y.e with
  | empty e _ => rw [e.1] at h; exact absurd rfl h
  | full e _ =>
    rw [e.1] at h ⊢
    by_contra other
    exact h ((dstMOf_eq_ite uM.seqD).trans (if_neg other))

/-- Without a load/use hazard the decode wires are those of the instruction in D, run on the state it starts in. -/
theorem Flight.dOut_eq (f : Flight t uW uM uE) (ok : t.mOut.stat.faulty = false) (running : uE.halted = false)
    (noHazard : t.loadUse = false) (d : t.D = uE.seqD) : t.dOut = uE.seqE := by
  have noLoad {r : RegId} (source : r = t.dOut.srcA ∨ r = t.dOut.srcB) : r ≠ none → t.E.dstM ≠ r := by
    rintro isReg rfl
    have hazard : t.loadUse = true := by
      simp only [State.loadUse, decide_eq_true_eq]
      exact ⟨(f.younger ok).load_of_dstM isReg, isReg, source⟩
    simp [noHazard] at hazard
  have srcA : t.dOut.srcA = srcAOf t.D := by rw [f.dOut]; rfl
  have srcB : t.dOut.srcB = srcBOf t.D := by rw [f.dOut]; rfl
  rw [f.dOut, State.seqE, ← d, decodeWith, decodeWith, f.forward_eq ok running (noLoad (.inl srcA.symm)),
    f.forward_eq ok running (noLoad (.inr srcB.symm))]

theorem Flight.dOut_of_bubble (f : Flight t uW uM uE) (d : t.D = DReg.bubble) : t.dOut = EReg.bubble := by
  rw [f.dOut, d]
  rfl

end

end Sys2Proof.Machine
end

section
/-! A clock cycle moves every stage one on: the invariant of the pipeline is kept until a stopping status leaves memory,
and the next cycle then ends the run where the instruction view ends it. -/

namespace Sys2Proof.Machine

/-! ## What the cycle executes -/

/-- What the cycle takes into E. -/
theorem State.backEnd_E_eq (s : State) : (s.backEnd s.hazardDecisions).E =
    if s.mispredict || s.loadUse || s.drain then EReg.bubble else s.dOut := by
  simp only [State.backEnd, State.latchE_E, State.hazardDecisions]
  cases s.mispredict || s.loadUse || s.drain <;> simp

/-- A cycle has a next state where the execute stage admits what it takes into E. -/
theorem State.clock_next_of_admitted {s : State}
    (h : (if s.mispredict || s.loadUse || s.drain then EReg.bubble else s.dOut).Admitted) :
    ∃ t, s.clock = .next t ∧ CycleOf s t := by
  refine s.clock_next ?_
  rw [← s.backEnd_E_eq] at h
  rw [State.executeRefusal]
  split_ifs with executes undefined source
  · simp [(h executes.1).1] at undefined
  · simp [(h executes.1).2] at source
  · rfl
  · rfl

theorem EReg.bubble_admitted : EReg.bubble.Admitted := fun ok => by simp [EReg.bubble] at ok

theorem State.memoryCompute_mOut (s : State) : s.memoryCompute.mOut = (memStage s.mem s.M).2 := by
  rcases s.memoryCompute_cases with ⟨ok, reads, _, e⟩ | ⟨ok, _, writes, _, e⟩ | ⟨none, _, e⟩
  · rw [memStage_reads ok reads, e]
  · rw [memStage_writes ok writes, e]
  · rw [memStage_none none, e]

section
variable {s t : State} (c : CycleOf s t)
include c

/-- Behind no fault a cycle that is not refused has taken an admitted instruction into E. -/
theorem CycleOf.admitted (noFault : t.olderFault = false) : t.E.Admitted := by
  have e : (s.backEnd s.hazardDecisions).E = t.E := by rw [s.backEnd_E_eq, c.E]
  have m : (s.backEnd s.hazardDecisions).mOut = t.mOut := by
    have latched : ((s.latchW .latch).writebackCompute.latchM s.hazardDecisions.M).M = t.M := by
      rw [c.M, State.latchM_M]
      simp only [State.hazardDecisions]
      cases s.drain <;> simp
    rw [show t.mOut = (memStage s.mem t.M).2 from congrArg Prod.snd c.memory_eq]
    simp [State.backEnd, State.memoryCompute_mOut, latched]
  have w : (s.backEnd s.hazardDecisions).W = t.W := by rw [s.backEnd_W, c.W]
  have same : (s.backEnd s.hazardDecisions).olderFault = false := by
    rw [State.olderFault, m, w]; exact noFault
  have admits := c.notRefused
  rw [State.executeRefusal, e] at admits
  intro ok
  rw [if_pos ⟨ok, same⟩] at admits
  split_ifs at admits with undefined source
  exact ⟨by simpa using undefined, by simpa using source⟩

end

/-! ## The younger part -/

section
variable {s t uM uE v : State}

theorem execOut_bubble_empty (cc : CC) : (execOut EReg.bubble cc).Empty := ⟨rfl, rfl, rfl, rfl⟩

/-- A cycle that takes a bubble into E. -/
theorem CycleOf.younger_of_bubble (c : CycleOf s t) (e : t.E = EReg.bubble) (cc : s.cc = uE.cc)
    (front : uE.halted = false → Front t uE) : Younger t uE uE where
  e := .empty ⟨e, by rw [c.eOut, e]; exact execOut_bubble_empty s.cc⟩ rfl
  cc := by rw [c.cc, e, if_neg (by simp [EReg.bubble]), cc]
  front running _ := front running

/-- A cycle that takes the next instruction into E. -/
theorem CycleOf.younger_of_next (c : CycleOf s t) (e : t.E = uE.seqE) (cc : s.cc = uE.cc) (noFault : t.olderFault = false)
    (next : Next uE v) (front : v.halted = false → t.mispredict = false → Front t v) : Younger t uE v where
  e := .full ⟨e, by rw [c.eOut, e, cc]; rfl⟩ next
  cc := by rw [c.cc, next.stages.cc, e, cc]; simp [noFault]
  front := front

end

/-- Fetch goes on from F unless a failed jump is in M or a ret in W (40_pipeline_stages.md R210). -/
theorem State.fetchPC_eq_predPC {t : State} (jump : t.M.icode ≠ .ijxx ∨ t.M.cnd = true) (ret : t.W.icode ≠ .iret) :
    t.fetchPC = t.F.predPC := by
  rw [State.fetchPC, if_neg (by rintro ⟨e, cnd⟩; simp [e, cnd] at jump), if_neg ret]

theorem State.loadUse_of_bubble {s : State} (h : s.dOut = EReg.bubble) : s.loadUse = false := by
  simp only [State.loadUse, h, decide_eq_false_iff_not]
  rintro ⟨_, isReg, source | source⟩
  · exact isReg source
  · exact isReg source

/-- What a cycle without a fault drain makes of the pipeline registers, and where it fetches. -/
structure Moved (s t : State) : Prop where
  W : t.W = s.mOut
  M : t.M = s.eOut
  E : t.E = if s.mispredict || s.loadUse then EReg.bubble else s.dOut
  D : t.D = if s.loadUse then s.D else if s.mispredict || s.retHazard then DReg.bubble else s.fOut.toD
  F : t.F = if s.loadUse || s.retHazard then s.F else ⟨.ok, s.fOut.predPC⟩
  fOut : t.fOut = fetchAt t.mem.image t.fetchPC

theorem CycleOf.mem_image {s t : State} (c : CycleOf s t) : t.mem.image = s.mem.image := by
  rw [show t.mem = (memStage s.mem t.M).1 from congrArg Prod.fst c.memory_eq, memStage_image]

theorem CycleOf.moved {s t : State} (c : CycleOf s t) (noDrain : s.drain = false) : Moved s t where
  W := c.W
  M := by rw [c.M, noDrain]; rfl
  E := by rw [c.E, noDrain, Bool.or_false]
  D := by rw [c.D, noDrain, Bool.or_false]
  F := by rw [c.F, noDrain]; rfl
  fOut := by rw [c.fOut, c.mem_image]

section
variable {s t uW uM uE v : State}

theorem Flight.no_drain (f : Flight s uW uM uE) (ok : s.mOut.stat.faulty = false) : s.drain = false := by
  simp [State.drain, ok, f.noStop]

theorem Younger.eOut_icode (y : Younger s uM uE) : s.eOut.icode = s.E.icode := by
  cases y.e with
  | empty h _ => rw [h.1, h.2.icode]; rfl
  | full h _ => rw [h.1, h.2]; rfl

theorem Next.seqW_ok {u v : State} (next : Next u v) (running : v.halted = false) : u.seqW.stat.faulty = false := by
  rw [next.stages.halted, Bool.or_eq_false_iff] at running
  exact running.2

theorem State.seqE_ne_bubble (u : State) : u.seqE ≠ EReg.bubble := fun e =>
  u.seqD_stat_ne_bubble (congrArg EReg.stat e)

/-- A bubble in E leads nowhere, and one leaves it on the execute wires. -/
theorem Younger.of_bubble (y : Younger t uM uE) (e : t.E = EReg.bubble) : uE = uM ∧ t.eOut.Empty := by
  cases y.e with
  | empty h same => exact ⟨same, h.2⟩
  | full h _ => exact absurd (h.1.symm.trans e) uM.seqE_ne_bubble

/-- An instruction in E leads to the state after it. -/
theorem Younger.of_next (y : Younger t uM uE) (e : t.E = uM.seqE) (next : Next uM v) : uE = v ∧ t.eOut = uM.seqM := by
  cases y.e with
  | empty h _ => exact absurd (e.symm.trans h.1) uM.seqE_ne_bubble
  | full h next' => exact ⟨next'.unique next, h.2⟩

/-- After a misprediction fetch is at the fall-through address, which the jump goes on at. -/
theorem Moved.fetchPC_of_mispredict (m : Moved s t) (y : Younger s uM uE) (hazard : s.mispredict = true)
    (running : uE.halted = false) : t.fetchPC = uE.seqPC := by
  obtain ⟨jump, cnd⟩ := State.mispredict_iff.mp hazard
  have icode : s.eOut.icode = .ijxx := by rw [y.eOut_icode, jump]
  cases y.e with
  | empty h _ => rw [h.1] at jump; simp [EReg.bubble] at jump
  | full h next =>
    rw [next.stages.next (next.seqW_ok running), State.seqNext, ← h.2, if_pos ⟨icode, cnd⟩, State.fetchPC, m.M,
      if_pos ⟨icode, cnd⟩]

theorem Moved.front_of_mispredict (m : Moved s t) (y : Younger s uM uE) (hazard : s.mispredict = true)
    (running : uE.halted = false) : Front t uE := by
  obtain ⟨jump, cnd⟩ := State.mispredict_iff.mp hazard
  have e : t.E = EReg.bubble := by rw [m.E, hazard]; rfl
  have d : t.D = DReg.bubble := by rw [m.D, State.loadUse_of_jump jump, hazard]; rfl
  exact .fetching ⟨by rw [e]; simp [EReg.bubble], by rw [m.M, y.eOut_icode, jump]; simp⟩ d
    (m.fetchPC_of_mispredict y hazard running) (.inl m.fOut)

/-- Under a load/use hazard D and fetch wait, and the load leaves E. -/
theorem Moved.front_of_loadUse (m : Moved s t) (f : Flight s uW uM uE) (y : Younger s uM uE) (hazard : s.loadUse = true)
    (front : Front s uE) : Front t uE := by
  have load : s.E.icode = .imrmovl ∨ s.E.icode = .ipopl := by
    simp only [State.loadUse, decide_eq_true_eq] at hazard
    exact hazard.1
  cases front with
  | decoded noRet d pred pc fOut =>
    have e : t.E = EReg.bubble := by rw [m.E, hazard, Bool.or_true]; rfl
    have icode : t.M.icode = .imrmovl ∨ t.M.icode = .ipopl := by rw [m.M, y.eOut_icode]; exact load
    have notJump : t.M.icode ≠ .ijxx := by rcases icode with e | e <;> simp [e]
    have notRet : t.M.icode ≠ .iret := by rcases icode with e | e <;> simp [e]
    have retired : t.W.icode ≠ .iret := by rw [m.W, f.mOut_icode]; exact noRet.2
    exact .decoded ⟨by rw [e]; simp [EReg.bubble], notRet⟩ (by rw [m.D, hazard]; exact d)
      (by rw [m.F, hazard]; exact pred) (State.fetchPC_eq_predPC (.inl notJump) retired) m.fOut
  | fetching _ d => simp [State.loadUse_of_bubble (f.dOut_of_bubble d)] at hazard
  | retInE d => simp [State.loadUse_of_bubble (f.dOut_of_bubble d)] at hazard
  | retInM d => simp [State.loadUse_of_bubble (f.dOut_of_bubble d)] at hazard

/-- Where nothing stalls F, fetch goes on from what it has predicted, unless a failed jump has reached M or a ret W. -/
theorem Moved.fetchPC_eq (m : Moved s t) (y : Younger s uM uE) (f : Flight s uW uM uE) (noJump : s.mispredict = false)
    (noLoad : s.loadUse = false) (noRet : s.retHazard = false) : t.F.predPC = s.fOut.predPC ∧ t.fetchPC = t.F.predPC := by
  have jump : t.M.icode ≠ .ijxx ∨ t.M.cnd = true := by
    rw [m.M, y.eOut_icode]
    by_contra h
    simp only [not_or, not_not, Bool.not_eq_true] at h
    simp [State.mispredict_iff.mpr h] at noJump
  have ret : t.W.icode ≠ .iret := by
    intro e
    rw [m.W, f.mOut_icode] at e
    simp [State.retHazard_iff.mpr (.inr (.inr e))] at noRet
  exact ⟨by rw [m.F, noLoad, noRet]; rfl, State.fetchPC_eq_predPC jump ret⟩

/-- The instruction in D goes to E, and fetch follows its prediction, or waits for it as a ret. -/
theorem Moved.front_of_decoded (m : Moved s t) (f : Flight s uW uM uE) (y : Younger s uM uE) (noJump : s.mispredict = false)
    (noLoad : s.loadUse = false) (noRet : s.E.icode ≠ .iret ∧ s.M.icode ≠ .iret) (d : s.D = uE.seqD)
    (pc : s.fetchPC = uE.seqFetch.predPC) (fOut : s.fOut = fetchAt s.mem.image s.fetchPC) (e : t.E = uE.seqE)
    (eOut : t.eOut = uE.seqM) (image : s.mem.image = uE.mem.image) (next : Next uE v) (running : v.halted = false)
    (predicted : t.mispredict = false) : Front t v := by
  have icode : t.E.icode = uE.seqFetch.icode := by rw [e]; rfl
  by_cases ret : uE.seqFetch.icode = .iret
  · have hazard : s.retHazard = true := State.retHazard_iff.mpr (.inl (by rw [d]; exact ret))
    exact .retInE (by rw [m.D, noLoad, noJump, hazard]; rfl) (icode.trans ret)
  · have noHazard : s.retHazard = false := by
      rw [← Bool.not_eq_true, State.retHazard_iff]
      rintro (h | h | h)
      · rw [d] at h; exact ret h
      · exact noRet.1 h
      · exact noRet.2 h
    obtain ⟨pred, follows⟩ := m.fetchPC_eq y f noJump noLoad noHazard
    have taken : uE.seqM.icode = .ijxx → uE.seqM.cnd = true := by
      intro jump
      by_contra failed
      rw [← eOut, Bool.not_eq_true] at failed
      simp [State.mispredict_iff.mpr ⟨by rw [e]; exact jump, failed⟩] at predicted
    have seqPC : v.seqPC = s.fetchPC := by
      rw [next.stages.next (next.seqW_ok running), State.seqNext_eq_predPC taken ret, pc]
    have fetched : s.fOut = v.seqFetch := by
      rw [fOut, State.seqFetch, seqPC, next.stages.image, image]
    exact .decoded ⟨by rw [icode]; exact ret, by rw [m.M, y.eOut_icode]; exact noRet.1⟩
      (by rw [m.D, noLoad, noJump, noHazard, fetched]; rfl) (by rw [pred, fetched]) follows m.fOut

/-- The instruction fetched behind a bubble goes to D. -/
theorem Moved.front_of_fetching (m : Moved s t) (f : Flight s uW uM uE) (y : Younger s uM uE)
    (noJump : s.mispredict = false) (noLoad : s.loadUse = false) (noRet : s.E.icode ≠ .iret ∧ s.M.icode ≠ .iret)
    (d : s.D = DReg.bubble) (pc : s.fetchPC = uE.seqPC)
    (fOut : s.fOut = fetchAt s.mem.image s.fetchPC ∨ (s.fOut.toD = DReg.bubble ∧ s.fOut.predPC = s.fetchPC))
    (e : t.E = EReg.bubble) (image : s.mem.image = uE.mem.image) : Front t uE := by
  have noHazard : s.retHazard = false := by
    rw [← Bool.not_eq_true, State.retHazard_iff]
    rintro (h | h | h)
    · rw [d] at h; simp [DReg.bubble] at h
    · exact noRet.1 h
    · exact noRet.2 h
  obtain ⟨pred, follows⟩ := m.fetchPC_eq y f noJump noLoad noHazard
  have noRet' : t.E.icode ≠ .iret ∧ t.M.icode ≠ .iret :=
    ⟨by rw [e]; simp [EReg.bubble], by rw [m.M, y.eOut_icode]; exact noRet.1⟩
  have latched : t.D = s.fOut.toD := by rw [m.D, noLoad, noJump, noHazard]; rfl
  rcases fOut with fetched | ⟨empty, predPC⟩
  · have fetched : s.fOut = uE.seqFetch := by rw [fetched, State.seqFetch, pc, image]
    exact .decoded noRet' (by rw [latched, fetched]; rfl) (by rw [pred, fetched]) follows m.fOut
  · exact .fetching noRet' (latched.trans empty) (by rw [follows, pred, predPC, pc]) (.inl m.fOut)

/-- Fetch goes on at the address a ret in M has read. -/
theorem Moved.fetchPC_of_retInM (m : Moved s t) (f : Flight s uW uM uE) (ok : s.mOut.stat.faulty = false)
    (ret : s.M.icode = .iret) (notJump : t.M.icode ≠ .ijxx) : t.fetchPC = uM.seqPC := by
  cases f.m with
  | empty h _ => rw [h.1.icode] at ret; simp at ret
  | full h next =>
    have wIcode : uW.seqW.icode = .iret := by rw [← h.2, f.mOut_icode, ret]
    have isRet : uW.seqM.icode ≠ .ijxx := by rw [← h.1, ret]; simp
    rw [next.stages.next (h.2 ▸ ok), State.seqNext, if_neg (fun j => isRet j.1), if_pos wIcode, State.fetchPC,
      if_neg (fun j => notJump j.1), m.W, h.2, if_pos wIcode]

/-- A ret that has read its address goes to W, and fetch goes on there. -/
theorem Moved.front_of_retInM (m : Moved s t) (f : Flight s uW uM uE) (y : Younger s uM uE)
    (ok : s.mOut.stat.faulty = false) (d : s.D = DReg.bubble) (e : s.E = EReg.bubble) (ret : s.M.icode = .iret) :
    Front t uE := by
  have noLoad : s.loadUse = false := State.loadUse_of_bubble (f.dOut_of_bubble d)
  have hazard : s.retHazard = true := State.retHazard_iff.mpr (.inr (.inr ret))
  have bubble : t.E = EReg.bubble := by rw [m.E, f.dOut_of_bubble d, ite_self]
  have mIcode : t.M.icode = .inop := by rw [m.M, y.eOut_icode, e]; rfl
  have pc : t.fetchPC = uE.seqPC := by
    rw [(y.of_bubble e).1, m.fetchPC_of_retInM f ok ret (by rw [mIcode]; simp)]
  have latched : t.D = DReg.bubble := by rw [m.D, noLoad, hazard, Bool.or_true]; rfl
  exact .fetching ⟨by rw [bubble]; simp [EReg.bubble], by rw [mIcode]; simp⟩ latched pc (.inl m.fOut)

/-! ## The invariant is kept -/

/-- The instruction in E goes to M, where it accesses memory. -/
theorem CycleOf.slot_M (c : CycleOf s t) (m : Moved s t) (y : Younger s uM uE) (mem : s.mem = uM.mem) :
    Slot (t.M.Empty ∧ t.mOut.Empty) (t.M = uM.seqM ∧ t.mOut = uM.seqW) uM uE ∧ t.mem = uE.mem := by
  have access := c.memory_eq
  rw [m.M, mem] at access
  cases y.e with
  | empty h same =>
    have none := memStage_none (m := uM.mem) (M := s.eOut) (.inl (by rw [h.2.stat]; simp))
    rw [none, Prod.mk.injEq] at access
    refine ⟨.empty ⟨by rw [m.M]; exact h.2, ?_⟩ same, by rw [access.1, same]⟩
    rw [access.2]
    exact ⟨h.2.stat, h.2.icode, h.2.dstE, h.2.dstM⟩
  | full h next =>
    rw [h.2] at access
    exact ⟨.full ⟨by rw [m.M, h.2], congrArg Prod.snd access⟩ next,
      by rw [next.stages.mem]; exact congrArg Prod.fst access⟩

theorem Flight.younger_cycle (f : Flight s uW uM uE) (c : CycleOf s t) (ok : s.mOut.stat.faulty = false)
    (ok' : t.mOut.stat.faulty = false) : ∃ v, Younger t uE v := by
  have y := f.younger ok
  have m := c.moved (f.no_drain ok)
  obtain ⟨slot, mem⟩ := c.slot_M m y f.mem
  have image : s.mem.image = uE.mem.image := by rw [← mem, c.mem_image]
  have noFault : t.olderFault = false := by
    rw [State.olderFault_eq_false, c.W]
    exact ⟨ok', ok⟩
  have running : uE.halted = false := by
    cases slot with
    | empty _ same => rw [same, f.uM_running ok]
    | full h next => rw [next.stages.halted, f.uM_running ok, ← h.2, ok']; rfl
  cases noJump : s.mispredict with
  | true =>
    exact ⟨uE, c.younger_of_bubble (by rw [m.E, noJump]; rfl) y.cc fun _ => m.front_of_mispredict y noJump running⟩
  | false =>
    have front := y.front running noJump
    cases noLoad : s.loadUse with
    | true =>
      exact ⟨uE, c.younger_of_bubble (by rw [m.E, noLoad, Bool.or_true]; rfl) y.cc fun _ =>
        m.front_of_loadUse f y noLoad front⟩
    | false =>
      have latched : t.E = s.dOut := by rw [m.E, noJump, noLoad]; rfl
      cases front with
      | decoded noRet d pred pc fOut =>
        have e : t.E = uE.seqE := latched.trans (f.dOut_eq ok running noLoad d)
        obtain ⟨v, run, stages⟩ := State.next_of_admitted running (e ▸ c.admitted noFault)
        have next : Next uE v := ⟨running, run, stages⟩
        have eOut : t.eOut = uE.seqM := by rw [c.eOut, e, y.cc]; rfl
        exact ⟨v, c.younger_of_next e y.cc noFault next fun alive predicted =>
          m.front_of_decoded f y noJump noLoad noRet d (pc.trans pred) fOut e eOut image next alive predicted⟩
      | fetching noRet d pc fOut =>
        have e := latched.trans (f.dOut_of_bubble d)
        exact ⟨uE, c.younger_of_bubble e y.cc fun _ => m.front_of_fetching f y noJump noLoad noRet d pc fOut e image⟩
      | retInE d ret =>
        have e := latched.trans (f.dOut_of_bubble d)
        have hazard : s.retHazard = true := State.retHazard_iff.mpr (.inr (.inl ret))
        exact ⟨uE, c.younger_of_bubble e y.cc fun _ =>
          .retInM (by rw [m.D, noLoad, hazard, Bool.or_true]; rfl) e (by rw [m.M, y.eOut_icode, ret])⟩
      | retInM d e ret =>
        exact ⟨uE, c.younger_of_bubble (latched.trans (f.dOut_of_bubble d)) y.cc fun _ =>
          m.front_of_retInM f y ok d e ret⟩

/-- Write-back makes of the registers what the instruction leaving memory makes of them. -/
theorem Flight.writeback (f : Flight s uW uM uE) (c : CycleOf s t) :
    t.regs = uM.regs ∧ t.freeIndex = uM.freeIndex ∧ t.cfg = uM.cfg ∧ t.stat = uM.stat := by
  cases f.m with
  | empty h same =>
    have bubble : t.W.stat = .bubble := by rw [c.W, h.2.stat]
    rw [c.regs, c.freeIndex, c.cfg, c.stat, if_pos bubble, h.2.stat, State.commit_bubble, same]
    exact ⟨f.regs, f.freeIndex, f.cfg, f.stat⟩
  | full h next =>
    have notBubble : t.W.stat ≠ .bubble := by rw [c.W, h.2]; exact uW.seqW_stat_ne_bubble
    obtain ⟨regs, free⟩ := State.commit_regs_congr s uW uW.seqW.stat uW.seqW.dstE uW.seqW.valE uW.seqW.dstM uW.seqW.valM
      f.regs f.cfg f.freeIndex
    rw [c.regs, c.freeIndex, c.cfg, c.stat, if_neg notBubble, c.W, h.2, regs, free]
    exact ⟨next.stages.regs.symm, next.stages.freeIndex.symm, f.cfg.trans next.stages.cfg.symm, next.stages.stat.symm⟩

/-- Two writes done again change nothing. -/
theorem RegFile.write_write_again (rf : RegFile) (dE dM : RegId) (vE vM : Word) :
    (((rf.write dE vE).write dM vM).write dE vE).write dM vM = (rf.write dE vE).write dM vM := by
  refine RegFile.ext_get fun r => ?_
  simp only [RegFile.get_write]
  split_ifs <;> rfl

/-- What has been written back is in the registers. -/
theorem Flight.written_cycle (f : Flight s uW uM uE) (c : CycleOf s t) (ok : s.mOut.stat.faulty = false) :
    (t.regs.write t.W.dstE t.W.valE).write t.W.dstM t.W.valM = t.regs := by
  rw [(f.writeback c).1, c.W]
  cases f.m with
  | empty h _ => rw [h.2.dstE, h.2.dstM]; rfl
  | full h next =>
    rw [h.2] at ok ⊢
    rw [next.stages.regs_of_ok ok, RegFile.write_write_again]

/-- A cycle behind no fault moves every instruction one stage on. -/
theorem Flight.cycle (f : Flight s uW uM uE) (c : CycleOf s t) (ok : s.mOut.stat.faulty = false) :
    ∃ v, Flight t uM uE v := by
  have y := f.younger ok
  obtain ⟨regs, freeIndex, cfg, stat⟩ := f.writeback c
  obtain ⟨slot, mem⟩ := c.slot_M (c.moved (f.no_drain ok)) y f.mem
  have younger : ∃ v, t.mOut.stat.faulty = false → Younger t uE v := by
    cases ok' : t.mOut.stat.faulty with
    | true => exact ⟨uE, by simp⟩
    | false => obtain ⟨v, h⟩ := f.younger_cycle c ok ok'; exact ⟨v, fun _ => h⟩
  obtain ⟨v, younger⟩ := younger
  refine ⟨v, f.uM_running ok, by rw [c.W, ok], regs, freeIndex, cfg, stat, f.written_cycle c ok, slot, mem, c.dOut,
    fun faulty => ?_, younger⟩
  rw [c.cc, if_neg, y.cc]
  rintro ⟨_, noFault⟩
  simp [State.olderFault, faulty] at noFault

/-- The pipeline at the end of a run that `u` ends by its status. -/
structure EndsAs (t u : State) : Prop where
  halted : t.halted = true ∧ u.halted = true
  regs : t.regs = u.regs
  freeIndex : t.freeIndex = u.freeIndex
  stat : t.stat = u.stat
  cc : t.cc = u.cc
  mem : t.mem = u.mem

/-- The cycle after a stopping status has left memory ends the run as its instruction does. -/
theorem Flight.ends (f : Flight s uW uM uE) (c : CycleOf s t) (faulty : s.mOut.stat.faulty = true) :
    Next uW uM ∧ EndsAs t uM := by
  cases f.m with
  | empty h _ => rw [h.2.stat] at faulty; simp [Status.faulty] at faulty
  | full h next =>
    obtain ⟨regs, freeIndex, -, stat⟩ := f.writeback c
    have drain : s.drain = true := by simp [State.drain, faulty]
    have e : t.E = EReg.bubble := by rw [c.E, drain, Bool.or_true]; rfl
    have m : t.M = MReg.bubble := by rw [c.M, drain]; rfl
    refine ⟨next, ⟨c.halted_of_faulty (by rw [c.W, faulty]), ?_⟩, regs, freeIndex, stat, ?_, ?_⟩
    · rw [next.stages.halted, ← h.2, faulty, Bool.or_true]
    · rw [c.cc, e, if_neg (by simp [EReg.bubble]), f.faulted faulty]
    · have none : t.M.stat ≠ .ok := by rw [m]; simp [MReg.bubble]
      rw [(c.memory_of_none (.inl none)).1, f.mem]

end

end Sys2Proof.Machine
end

section
/-! The pipeline does what the instructions say: for every program, and cycle by cycle for one instruction in an empty
pipeline (70_reset_and_hazards.md R630, R633). -/

namespace Sys2Proof.Machine

/-! ## Every program -/

/-- One instruction more. -/
theorem State.runInstructions_succ {n : Nat} {s u v : State} (h : State.runInstructions n s = .next u)
    (run : u.stepInstruction = .next v) : State.runInstructions (n + 1) s = .next v := by
  induction n generalizing s with
  | zero =>
    obtain rfl := Host.Outcome.next.inj h
    simp [State.runInstructions, run]
  | succ n ih =>
    rw [State.runInstructions] at h ⊢
    cases step : s.stepInstruction with
    | next w =>
      simp only [step] at h ⊢
      exact ih h
    | fault r => simp [step] at h
    | refused r => simp [step] at h

/-- What a run of the pipeline from `base` has come to: it is in the middle, or a status has ended it; and the
instructions that have retired lead the instruction view from `base` to the same state. -/
inductive RunsAs (base t : State) : Prop
  | flying (uW uM uE : State) (flight : Flight t uW uM uE) (ok : t.stat = .ok)
      (run : State.runInstructions (retired t.log) base = .next uW)
  | ended (u : State) (ends : EndsAs t u) (run : State.runInstructions (retired t.log) base = .next u)

section
variable {base s t uW uM uE : State}

/-- A cycle retires the instruction that has left memory, if there is one. -/
theorem Flight.retired_run (f : Flight s uW uM uE) (c : CycleOf s t)
    (run : State.runInstructions (retired s.log) base = .next uW) :
    State.runInstructions (retired t.log) base = .next uM := by
  rw [c.retired_log, c.W]
  cases f.m with
  | empty h same => rw [if_pos h.2.stat, same]; exact run
  | full h next =>
    rw [if_neg (by rw [h.2]; exact uW.seqW_stat_ne_bubble)]
    exact State.runInstructions_succ run next.run

theorem Flight.stat_ok (f : Flight s uW uM uE) (c : CycleOf s t) (ok : s.mOut.stat.faulty = false) (stat : s.stat = .ok) :
    t.stat = .ok := by
  refine c.stat_eq_ok stat ?_
  rw [c.W]
  cases f.m with
  | empty h _ => exact .inl h.2.stat
  | full h _ => rw [h.2] at ok ⊢; exact .inr (State.seqW_stat_ok ok)

theorem RunsAs.stepOneCycle (h : RunsAs base s) (run : s.stepOneCycle = .next t) : RunsAs base t := by
  rcases State.stepOneCycle_cases run with ⟨_, rfl⟩ | ⟨running, c⟩
  · exact h
  · cases h with
    | flying uW uM uE f stat run =>
      cases ok : s.mOut.stat.faulty with
      | true => exact .ended uM (f.ends c ok).2 (f.retired_run c run)
      | false =>
        obtain ⟨v, f'⟩ := f.cycle c ok
        exact .flying uM uE v f' (f.stat_ok c ok stat) (f.retired_run c run)
    | ended u ends _ => simp [ends.halted.1] at running

theorem RunsAs.runCycles {n : Nat} (h : RunsAs base s) (run : State.runCycles n s = .next t) : RunsAs base t := by
  induction n generalizing s with
  | zero => exact Host.Outcome.next.inj run ▸ h
  | succ n ih =>
    obtain ⟨u, first, rest⟩ := State.runCycles_succ run
    exact ih (h.stepOneCycle first) rest

end

/-- Settles O58: a load leaves an empty pipeline, every cycle keeps `RunsAs`, and it names the instruction view's state. -/
theorem pipelineAgreesWithOneAtATime : Obligations.PipelineAgreesWithOneAtATime := by
  unfold Obligations.PipelineAgreesWithOneAtATime
  intro s t image n run
  have start : RunsAs (s.load image) (s.load image) := .flying _ _ _ (s.load_quiescent image).flight rfl rfl
  cases start.runCycles run with
  | flying uW uM uE f stat run =>
    exact ⟨uW, run, f.regs.symm, f.stat.symm, fun faulty => by simp [stat, Status.faulty] at faulty⟩
  | ended u ends run =>
    exact ⟨u, run, ends.regs.symm, ends.stat.symm, fun _ => ⟨ends.halted.2, ends.cc.symm, ends.mem.symm⟩⟩

end Sys2Proof.Machine
end

section
/-! One instruction in an empty pipeline, cycle by cycle (70_reset_and_hazards.md R633). -/

namespace Sys2Proof.Machine

/-! ## Counting the cycles of a run that goes on -/

/-- `k` cycles from `s` have led to `t`, and the run goes on. -/
structure After (k : Nat) (s t : State) : Prop where
  run : State.runCycles k s = .next t
  running : t.halted = false
  cycle : t.cycle = s.cycle + k
  maxCycles : t.maxCycles = s.maxCycles

section
variable {k : Nat} {s t u : State}

/-- The run of one cycle more, from where it goes on. -/
theorem After.run_succ (a : After k s t) : State.runCycles (k + 1) s = t.clock := by
  rw [State.runCycles_add k 1 a.run]
  simp only [State.runCycles, State.stepOneCycle, a.running, Bool.false_eq_true, if_false]
  cases t.clock <;> rfl

/-- In a run of two cycles more, the first of them has a next state. -/
theorem After.next_of_run (a : After k s t) (run : State.runCycles (k + 2) s = .next u) : ∃ v, t.clock = .next v := by
  obtain ⟨v, first, -⟩ := State.runCycles_succ ((State.runCycles_add k 2 a.run).symm.trans run)
  exact ⟨v, by simpa [State.stepOneCycle, a.running] using first⟩

theorem After.cycleOf (a : After k s t) (run : State.runCycles (k + 1) s = .next u) : CycleOf t u :=
  State.clock_cycleOf (a.run_succ ▸ run)

/-- Below the bound, a cycle that latches no stopping status into W leaves the run going on. -/
theorem After.halted_succ (a : After k s t) (c : CycleOf t u) (bound : s.cycle + (k + 1) < s.maxCycles) :
    u.halted = t.mOut.stat.faulty := by
  have notYet : ¬ t.maxCycles ≤ t.cycle + 1 := by rw [a.cycle, a.maxCycles]; omega
  rw [c.halted, a.running, c.W, decide_eq_false notYet, Bool.or_false, Bool.false_or]

theorem After.succ (a : After k s t) (run : t.clock = .next u) (c : CycleOf t u) (bound : s.cycle + (k + 1) < s.maxCycles)
    (ok : t.mOut.stat.faulty = false) : After (k + 1) s u :=
  ⟨a.run_succ.trans run, (a.halted_succ c bound).trans ok, by rw [c.cycle, a.cycle]; omega,
    c.maxCycles.trans a.maxCycles⟩

end

/-! ## Empty stages -/

section
variable {s t u uW uM uE v : State}

/-- An empty M gives empty memory wires. -/
theorem Flight.mOut_empty (f : Flight t uW uM uE) (m : t.M.Empty) : t.mOut.Empty := by
  cases f.m with
  | empty h _ => exact h.2
  | full h _ =>
    have stat : uW.seqM.stat = .bubble := by rw [← h.1, m.stat]
    exact absurd stat uW.seqD_stat_ne_bubble

theorem WReg.Empty.ok {W : WReg} (h : W.Empty) : W.stat.faulty = false := by rw [h.stat]; rfl

end

/-! ## The instruction on its way -/

/-- After two cycles from an empty pipeline: the first instruction is in D, everything older is empty, and fetch is at the
address predicted for it. -/
structure InDecode (s t : State) : Prop where
  after : After 2 s t
  flight : Flight t s s s
  d : t.D = s.seqD
  e : t.E = EReg.bubble
  mOut : t.mOut.Empty
  fetched : t.fOut.pc = s.seqFetch.predPC

/-- After three cycles the instruction is in E. -/
structure InExecute (s u t : State) : Prop where
  after : After 3 s t
  flight : Flight t s s u
  e : t.E = s.seqE
  mOut : t.mOut.Empty

section
variable {s t u uW uM uE : State}

theorem State.mispredict_of_bubble (e : t.E = EReg.bubble) : t.mispredict = false := by
  simp [State.mispredict, e, EReg.bubble]

theorem State.loadUse_of_no_load (e : t.E = EReg.bubble) : t.loadUse = false :=
  State.loadUse_eq_false (by rw [e]; simp [EReg.bubble])

/-- A bubble in D lets the cycle go on. -/
theorem Flight.clock_of_bubble (f : Flight t uW uM uE) (d : t.D = DReg.bubble) :
    ∃ t', t.clock = .next t' ∧ CycleOf t t' :=
  State.clock_next_of_admitted (by rw [f.dOut_of_bubble d, ite_self]; exact EReg.bubble_admitted)

/-- What a cycle makes of a pipeline with nothing from D on: D and fetch move. -/
structure FrontMoved (s t u : State) : Prop where
  cycle : CycleOf s t
  flight : Flight t u u u
  e : t.E = EReg.bubble
  mOut : t.mOut.Empty
  d : t.D = s.fOut.toD
  fOut : t.fOut = fetchAt u.mem.image s.fOut.predPC

theorem Flight.frontMoved (f : Flight s u u u) (d : s.D = DReg.bubble) (e : s.E = EReg.bubble) (m : s.mOut.Empty) :
    ∃ t, s.clock = .next t ∧ FrontMoved s t u := by
  have y := f.younger m.ok
  obtain ⟨t, run, c⟩ := f.clock_of_bubble d
  have moved := c.moved (f.no_drain m.ok)
  obtain ⟨v, f'⟩ := f.cycle c m.ok
  have noRet : s.retHazard = false := by
    rw [← Bool.not_eq_true, State.retHazard_iff, ← f.mOut_icode, d, e, m.icode]
    simp [DReg.bubble, EReg.bubble]
  have e' : t.E = EReg.bubble := by rw [moved.E, f.dOut_of_bubble d, ite_self]
  have m' : t.mOut.Empty := f'.mOut_empty (by rw [moved.M]; exact (y.of_bubble e).2)
  obtain ⟨pred, follows⟩ :=
    moved.fetchPC_eq y f (State.mispredict_of_bubble e) (State.loadUse_of_no_load e) noRet
  obtain rfl := ((f'.younger m'.ok).of_bubble e').1
  refine ⟨t, run, c, f', e', m', ?_, ?_⟩
  · rw [moved.D, State.loadUse_of_no_load e, State.mispredict_of_bubble e, noRet]; rfl
  · rw [moved.fOut, follows, pred, f'.mem]

/-- An empty pipeline fetches its first instruction in the first cycle and takes it into D in the second. -/
theorem State.Quiescent.inDecode (q : s.Quiescent) (bound : s.cycle + 5 < s.maxCycles) : ∃ t, InDecode s t := by
  have a₀ : After 0 s s := ⟨rfl, q.running, rfl, rfl⟩
  have m₀ : s.mOut.Empty := by rw [q.mOut]; exact ⟨rfl, rfl, rfl, rfl⟩
  obtain ⟨t₁, run₁, c₁, f₁, e₁, m₁, d₁, fOut₁⟩ := q.flight.frontMoved q.d q.e m₀
  rw [q.fOut.2] at fOut₁
  obtain ⟨t₂, run₂, c₂, f₂, e₂, m₂, d₂, fOut₂⟩ := f₁.frontMoved (d₁.trans q.fOut.1) e₁ m₁
  have a₂ := (a₀.succ run₁ c₁ (by omega) m₀.ok).succ run₂ c₂ (by omega) m₁.ok
  exact ⟨t₂, a₂, f₂, by rw [d₂, fOut₁]; rfl, e₂, m₂, by rw [fOut₂, fetchAt_pc, fOut₁]; rfl⟩

/-- The third cycle takes the instruction into E, which admits it. -/
theorem InDecode.inExecute (h : InDecode s t) (bound : s.cycle + 5 < s.maxCycles) (admitted : s.seqE.Admitted)
    (next : Next s u) : ∃ t', InExecute s u t' := by
  have ok := h.mOut.ok
  have y := h.flight.younger ok
  have noLoad := State.loadUse_of_no_load h.e
  have noJump := State.mispredict_of_bubble h.e
  have dOut := h.flight.dOut_eq ok next.running noLoad h.d
  obtain ⟨t', run, c⟩ := State.clock_next_of_admitted (s := t)
    (by rw [noJump, noLoad, h.flight.no_drain ok, dOut]; exact admitted)
  have moved := c.moved (h.flight.no_drain ok)
  obtain ⟨v, f'⟩ := h.flight.cycle c ok
  have e' : t'.E = s.seqE := by rw [moved.E, noJump, noLoad, dOut]; rfl
  have m' : t'.mOut.Empty := f'.mOut_empty (by rw [moved.M]; exact (y.of_bubble h.e).2)
  obtain rfl := ((f'.younger m'.ok).of_next e' next).1
  exact ⟨t', h.after.succ run c (by omega) ok, f', e', m'⟩

/-- An instruction that is not refused is admitted by the execute stage, and leads to the state its meaning gives. -/
theorem State.next_of_exec {i : Instr} (running : s.halted = false) (h : s.instrAt i) (run : exec i s = .next u) :
    s.seqE.Admitted ∧ Next s u := by
  obtain ⟨inside, rest, bytes⟩ := id h
  have step : s.stepInstruction = .next u := by
    simp [State.stepInstruction, running, State.fetchInstr_of_decode inside bytes, run]
  exact ⟨(State.admitted_iff h).mpr ⟨u, run⟩, running, step, exec_stagesOf h run⟩

end

/-- Settles O56: the invariant, with the instruction in D after two cycles, in E after three, in M after four. -/
theorem fiveCyclesDoWhatTheInstructionSays : Obligations.FiveCyclesDoWhatTheInstructionSays := by
  unfold Obligations.FiveCyclesDoWhatTheInstructionSays
  intro s u i q at_ run bound
  obtain ⟨admitted, next⟩ := State.next_of_exec q.running at_ run
  obtain ⟨t₂, h₂⟩ := q.inDecode bound
  obtain ⟨t₃, h₃⟩ := h₂.inExecute bound admitted next
  have f₂ := h₂.flight
  have f₃ := h₃.flight
  have ok₃ := h₃.mOut.ok
  refine ⟨⟨t₂, h₂.after.run, (f₂.younger h₂.mOut.ok).cc, f₂.regs, f₂.mem⟩,
    ⟨t₃, h₃.after.run, (f₃.younger ok₃).cc, f₃.regs, f₃.mem⟩, fun t₄ run₄ => ?_, fun t₅ run₅ => ?_⟩
  · obtain ⟨v, f₄⟩ := f₃.cycle (h₃.after.cycleOf run₄) ok₃
    exact ⟨f₄.mem, f₄.regs⟩
  · obtain ⟨t₄, run₄⟩ := h₃.after.next_of_run run₅
    have c₄ := State.clock_cycleOf run₄
    obtain ⟨v, f₄⟩ := f₃.cycle c₄ ok₃
    have a₄ := h₃.after.succ run₄ c₄ (by omega) ok₃
    have c₅ := a₄.cycleOf run₅
    have counted : t₅.cycle = s.cycle + 5 := by rw [c₅.cycle, a₄.cycle]
    cases ok₄ : t₄.mOut.stat.faulty with
    | true =>
      have ends := (f₄.ends c₅ ok₄).2
      exact ⟨ends.regs, ends.stat, ends.halted.1.trans ends.halted.2.symm, ends.freeIndex, counted⟩
    | false =>
      obtain ⟨regs, freeIndex, -, stat⟩ := f₄.writeback c₅
      have halted := (a₄.halted_succ c₅ bound).trans ok₄
      exact ⟨regs, stat, halted.trans (f₄.uM_running ok₄).symm, freeIndex, counted⟩

/-! ## Where fetch goes on -/

section
variable {s t u uW uM uE : State}

/-- A jump redirects when its condition fails. -/
theorem State.redirects_jump_iff {c : Cond} {dest : Word}
    (fetched : s.seqFetch = fetchOf s.seqPC ⟨.ijxx, c.toNibble, none, none, dest⟩) :
    (!condHolds c s.cc) = true ↔ s.seqFetch.icode = .iret ∨ (s.seqM.icode = .ijxx ∧ s.seqM.cnd = false) := by
  obtain ⟨icode, cnd⟩ := State.seqM_jump fetched
  simp [icode, cnd, fetched, fetchOf]

/-- What the stages make of a redirecting instruction: a ret, or a jump whose condition fails. -/
theorem State.redirects_iff {i : Instr} (h : s.instrAt i) :
    redirects i s.cc = true ↔ s.seqFetch.icode = .iret ∨ (s.seqM.icode = .ijxx ∧ s.seqM.cnd = false) := by
  have fetched := State.seqFetch_of_instrAt h
  cases i with
  | jmp => exact State.redirects_jump_iff (c := .always) fetched
  | jle => exact State.redirects_jump_iff (c := .le) fetched
  | jl => exact State.redirects_jump_iff (c := .l) fetched
  | je => exact State.redirects_jump_iff (c := .e) fetched
  | jne => exact State.redirects_jump_iff (c := .ne) fetched
  | jge => exact State.redirects_jump_iff (c := .ge) fetched
  | jg => exact State.redirects_jump_iff (c := .g) fetched
  | _ => simp [redirects, s.seq_icode.2.2.1, fetched, fetchOf, Instr.fields]

theorem Instr.eq_ret_of_icode {i : Instr} (h : i.fields.icode = .iret) : ∃ f, i = .ret f := by
  cases i with
  | ret f => exact ⟨f, rfl⟩
  | _ => exact ICode.noConfusion h

theorem Moved.fOut_pc (m : Moved s t) : t.fOut.pc = t.fetchPC := by rw [m.fOut, fetchAt_pc]

/-- Where nothing redirects, the prediction is the next address. -/
theorem Next.seqPC_of_predicted (next : Next s u) (running : u.halted = false) (ret : s.seqFetch.icode ≠ .iret)
    (jump : s.seqM.icode = .ijxx → s.seqM.cnd = true) : u.seqPC = s.seqFetch.predPC := by
  rw [next.stages.next (next.seqW_ok running), State.seqNext_eq_predPC jump ret]

/-- The cycle after a failed jump was in E fetches at its next address. -/
theorem InExecute.fetches_fallThrough (h : InExecute s u t) (next : Next s u) (running : u.halted = false)
    (failed : s.seqM.icode = .ijxx ∧ s.seqM.cnd = false) :
    ∃ t', State.runCycles 4 s = .next t' ∧ t'.fOut.pc = u.seqPC := by
  have ok := h.mOut.ok
  have y := h.flight.younger ok
  have mispredict : t.mispredict = true := by
    rw [State.mispredict_iff, h.e, (y.of_next h.e next).2]; exact failed
  obtain ⟨t', run, c⟩ := State.clock_next_of_admitted (s := t) (by rw [mispredict]; exact EReg.bubble_admitted)
  have moved := c.moved (h.flight.no_drain ok)
  exact ⟨t', h.after.run_succ.trans run, by rw [moved.fOut_pc, moved.fetchPC_of_mispredict y mispredict running]⟩

/-- While a ret is in E nothing behind it is in D. -/
theorem InExecute.bubble_of_ret (h : InExecute s u t) (running : u.halted = false) (ret : s.seqFetch.icode = .iret) :
    t.D = DReg.bubble := by
  have icode : t.E.icode = .iret := by rw [h.e]; exact ret
  have noJump : t.mispredict = false := by
    rw [← Bool.not_eq_true, State.mispredict_iff, icode]
    simp
  cases (h.flight.younger h.mOut.ok).front running noJump with
  | decoded noRet => exact absurd icode noRet.1
  | fetching noRet => exact absurd icode noRet.1
  | retInE d => exact d
  | retInM d => exact d

/-- The second cycle after a ret was in E fetches at the address it has read. -/
theorem InExecute.fetches_returnAddress (h : InExecute s u t) (bound : s.cycle + 5 < s.maxCycles) (next : Next s u)
    (running : u.halted = false) (ret : s.seqFetch.icode = .iret) :
    ∃ t', State.runCycles 5 s = .next t' ∧ t'.fOut.pc = u.seqPC := by
  have ok := h.mOut.ok
  have d := h.bubble_of_ret running ret
  have noLoad := State.loadUse_of_bubble (h.flight.dOut_of_bubble d)
  obtain ⟨t₄, run₄, c₄⟩ := h.flight.clock_of_bubble d
  have moved₄ := c₄.moved (h.flight.no_drain ok)
  obtain ⟨v, f₄⟩ := h.flight.cycle c₄ ok
  have icode₄ : t₄.M.icode = .iret := by
    rw [moved₄.M, (h.flight.younger ok).eOut_icode, h.e]; exact ret
  have hazard : t.retHazard = true := State.retHazard_iff.mpr (.inr (.inl (by rw [h.e]; exact ret)))
  have d₄ : t₄.D = DReg.bubble := by rw [moved₄.D, noLoad, hazard, Bool.or_true]; rfl
  have e₄ : t₄.E = EReg.bubble := by rw [moved₄.E, h.flight.dOut_of_bubble d, ite_self]
  have ok₄ : t₄.mOut.stat.faulty = false := by
    cases f₄.m with
    | empty none _ => rw [none.2.stat]; rfl
    | full leaves _ => rw [leaves.2, next.seqW_ok running]
  obtain ⟨t₅, run₅, c₅⟩ := f₄.clock_of_bubble d₄
  have moved₅ := c₅.moved (f₄.no_drain ok₄)
  have noJump : t₅.M.icode ≠ .ijxx := by
    rw [moved₅.M, (f₄.younger ok₄).eOut_icode, e₄]
    simp [EReg.bubble]
  have a₄ := h.after.succ run₄ c₄ (by omega) ok
  exact ⟨t₅, a₄.run_succ.trans run₅, by rw [moved₅.fOut_pc, moved₅.fetchPC_of_retInM f₄ ok₄ icode₄ noJump]⟩

end

/-- Settles O57: the prediction, the jump in E and the ret in M are the three sources of the fetch address. -/
theorem fetchGoesOnAtTheNextInstruction : Obligations.FetchGoesOnAtTheNextInstruction := by
  unfold Obligations.FetchGoesOnAtTheNextInstruction
  intro s u i q at_ run ok bound
  obtain ⟨admitted, next⟩ := State.next_of_exec q.running at_ run
  obtain ⟨t₂, h₂⟩ := q.inDecode bound
  obtain ⟨t₃, h₃⟩ := h₂.inExecute bound admitted next
  have running : u.halted = false := by
    rw [next.stages.halted, q.running, ← next.stages.stat, ok]; rfl
  refine ⟨fun straight => ⟨t₂, h₂.after.run, ?_⟩, fun redirected noRet => ?_, fun f isRet => ?_⟩
  · have predicted := (State.redirects_iff at_).not.mp (by rw [straight]; exact Bool.false_ne_true)
    rw [h₂.fetched, next.seqPC_of_predicted running (fun ret => predicted (.inl ret)) fun jump => ?_]
    by_contra failed
    exact predicted (.inr ⟨jump, by simpa using failed⟩)
  · rcases (State.redirects_iff at_).mp redirected with ret | failed
    · rw [State.seqFetch_of_instrAt at_] at ret
      obtain ⟨f, isRet⟩ := Instr.eq_ret_of_icode ret
      exact absurd isRet (noRet f)
    · exact h₃.fetches_fallThrough next running failed
  · exact h₃.fetches_returnAddress bound next running (by rw [State.seqFetch_of_instrAt at_, isRet]; rfl)

end Sys2Proof.Machine
end
